-- ==== Sys2Proof/Word.lean ====
section
/-! DEFINITION. The bit-vector widths the spec uses (spec/00_scope.md R16: bits are numbered from 0 at the
least significant end, every value is unsigned). -/

namespace Sys2Proof

/-- A byte: a frame-buffer byte, a bus byte, an encoded output byte (R22, R39). -/
abbrev Byte := BitVec 8

/-- The width of the register pointer and of the encoder's byte index (R25, R33). -/
abbrev Half := BitVec 16

/-- An event word: code in bits 10..8, data in bits 7..0 (R67). -/
abbrev EventWord := BitVec 11

/-- `zext_16(b)` of R16. -/
def zext16 (b : Byte) : Half := b.setWidth 16

/-- `hi : lo` of R16: the 16-bit value with `hi` in the high byte. -/
def concat16 (hi lo : Byte) : Half := hi ++ lo

/-- `v[7:0]` of a 16-bit value. -/
def lowByte (v : Half) : Byte := v.setWidth 8

end Sys2Proof
end

