-- ==== Sys2Proof/Config.lean ====
section
/-! DEFINITION. The implementation parameters of spec/00_scope.md section 3 (R7 to R15) and the domain of
R8. A configuration is fixed for the life of the block; the spec leaves no value undefined, so there is no
free value here. -/

namespace Sys2Proof

/-- R9: the two protocol variants. R3 admits no other combination of address width and remap. -/
inductive Mode where
  | native
  | compat
  deriving DecidableEq, Repr

/-- R14: whether a read-direction address match clears the register pointer. -/
inductive PtrOnReadMatch where
  | clear
  | keep
  deriving DecidableEq, Repr

/-- R14: whether the compatible-mode page value survives an address match. -/
inductive PageScope where
  | persistent
  | transaction
  deriving DecidableEq, Repr

/-- R14: the width at which the compatible-mode pointer wraps; R14 admits 8 and 16 only. -/
inductive PtrBits where
  | bits8
  | bits16
  deriving DecidableEq, Repr

/-- R14: whether the encoder reads the buffer once per 2-bit group or once per byte. -/
inductive EncFetch where
  | perGroup
  | latched
  deriving DecidableEq, Repr

/-- R11: the encoder's fixed table of four bytes, entry `g` for the 2-bit group `g`. -/
structure Lut where
  e0 : Byte
  e1 : Byte
  e2 : Byte
  e3 : Byte
  deriving DecidableEq, Repr

/-- `LUT[g]`. -/
def Lut.get (l : Lut) (g : BitVec 2) : Byte :=
  if g = 0 then l.e0 else if g = 1 then l.e1 else if g = 2 then l.e2 else l.e3

/-- R73: `SYM(0)` of a structured table, a nibble of its "all-zeros" entry. -/
def Lut.sym0 (l : Lut) : BitVec 4 := l.e0.extractLsb' 0 4

/-- R73: `SYM(1)` of a structured table, a nibble of its "all-ones" entry. -/
def Lut.sym1 (l : Lut) : BitVec 4 := l.e3.extractLsb' 0 4

/-- R73: the high nibble is the symbol of `g[1]` and the low nibble the symbol of `g[0]`, and every symbol
starts high. The shares of a slot that are high are `Machine.lutRatios` in Machine/Line.lean. A property a table may
have; no event rule depends on it (log 13). -/
def Lut.structured (l : Lut) : Bool :=
  l.e0 == l.sym0 ++ l.sym0 && l.e1 == l.sym0 ++ l.sym1 && l.e2 == l.sym1 ++ l.sym0 && l.e3 == l.sym1 ++ l.sym1 &&
    l.sym0.getLsbD 3 && l.sym1.getLsbD 3

/-- The default table of R11 and R73. PRESUMED by the spec itself (general knowledge, D13). -/
def Lut.default : Lut := { e0 := 0x88, e1 := 0x8E, e2 := 0xE8, e3 := 0xEE }

/-- The parameters of R7 to R14. -/
structure Config where
  /-- `N_LEDS` (R7). -/
  nLeds : Nat
  /-- `MODE` (R9). -/
  mode : Mode
  /-- `RESET_BYTES` (R10). -/
  resetBytes : Nat
  /-- `LUT` (R11). -/
  lut : Lut
  /-- `PAGE_SEL` (R12). -/
  pageSel : Byte
  /-- `COLOR_BASE` (R12). -/
  colorBase : Byte
  /-- `T_BIT` (R13) in picoseconds; timing only, no state rule reads it. -/
  tBitPs : Nat
  /-- `PTR_ON_READ_MATCH` (R14). -/
  ptrOnReadMatch : PtrOnReadMatch
  /-- `PAGE_SCOPE` (R14). -/
  pageScope : PageScope
  /-- `PTR_BITS_COMPAT` (R14). -/
  ptrBitsCompat : PtrBits
  /-- `ENC_FETCH` (R14). -/
  encFetch : EncFetch
  deriving DecidableEq, Repr

/-- R7: `CAP = 3 * N_LEDS`. -/
def Config.cap (c : Config) : Nat := 3 * c.nLeds

/-- R26: `PW`, 16 in `NATIVE` and `PTR_BITS_COMPAT` in `COMPAT`. -/
def Config.ptrWidth (c : Config) : Nat :=
  match c.mode with
  | .native => 16
  | .compat =>
    match c.ptrBitsCompat with
    | .bits8 => 8
    | .bits16 => 16

/-- R8 and D27: the configuration domain, `1 <= N_LEDS`, `CAP <= 65535`, `RESET_BYTES >= 1`. -/
def Config.inDomain (c : Config) : Bool :=
  decide (1 ≤ c.nLeds) && decide (c.cap ≤ 65535) && decide (1 ≤ c.resetBytes)

/-- R13 and R141: the gap holds the line low for at least 50 microseconds. A property a configuration should
have; no state rule reads it (log 12). -/
def Config.latchHold (c : Config) : Bool := decide (50000000 ≤ c.resetBytes * 8 * c.tBitPs)

/-- R15: the 7-bit slave address of every build. -/
def slaveAddr : BitVec 7 := 0x74

/-- The spec's default for every parameter that has one (R11, R12, R14). DESIGN CHOICE, log 2: for the
parameters without a default, 72 LEDs and 24 reset bytes (the first observed values), `NATIVE`, and the bit
period of the illustration in R142. -/
def Config.default : Config where
  nLeds := 72
  mode := .native
  resetBytes := 24
  lut := Lut.default
  pageSel := 0xFD
  colorBase := 0x24
  tBitPs := 312500
  ptrOnReadMatch := .clear
  pageScope := .persistent
  ptrBitsCompat := .bits16
  encFetch := .perGroup

end Sys2Proof
end

