-- ==== Sys2Proof/Syntax.lean ====
section
/-! DEFINITION. What the block is handed (`Input`), and its operations (`Instr`), one constructor per row of
spec/opcode_table.json. The block runs no program (R20): its instructions are the events of its ports. -/

namespace Sys2Proof

/-- R28: the address-phase state of the current write transaction. -/
inductive Phase where
  | addr
  | addrHi
  | page
  | data
  deriving DecidableEq, Repr

/-- R28: the 2-bit encoding of the phase, `ADDR = 0b00`, `ADDR_HI = 0b01`, `PAGE = 0b10`, `DATA = 0b11`. -/
def Phase.bits : Phase → BitVec 2
  | .addr => 0b00
  | .addrHi => 0b01
  | .page => 0b10
  | .data => 0b11

/-- R32: the encoder state. -/
inductive EncState where
  | g0
  | g1
  | g2
  | g3
  | rst
  deriving DecidableEq, Repr

/-- R39: the direction of an address match. -/
inductive Dir where
  | w
  | r
  deriving DecidableEq, Repr

/-- One thing the environment hands the block's surroundings: an address byte after a start condition, as the
bus controller sees it (the table's WIRE8 rows, R62, R63), or an event word (the EV11 rows, R67). -/
inductive Input where
  | wire (b : Byte)
  | event (e : EventWord)
  deriving DecidableEq, Repr

/-- The operations, one constructor per row of spec/opcode_table.json. -/
inductive Instr where
  /-- WIRE_ADDR (R62): the block's own address byte. -/
  | wireAddr (dir : Dir)
  /-- WIRE_OTHER (R63): any other address byte. -/
  | wireOther (b : Byte)
  /-- ADDR_MATCH_W (R90). -/
  | addrMatchW
  /-- ADDR_MATCH_R (R91). -/
  | addrMatchR
  /-- RX_ADDR_LO (R92). -/
  | rxAddrLo (b : Byte)
  /-- RX_ADDR_HI (R93). -/
  | rxAddrHi (b : Byte)
  /-- RX_DATA_N (R94). -/
  | rxDataN (b : Byte)
  /-- RX_ADDR_C (R105). -/
  | rxAddrC (b : Byte)
  /-- RX_PAGE (R106). -/
  | rxPage (b : Byte)
  /-- RX_DATA_C (R109). -/
  | rxDataC (b : Byte)
  /-- RX_INVALID (R70). -/
  | rxInvalid (b : Byte)
  /-- TX_REQ (R95). -/
  | txReq
  /-- STOP (R96). -/
  | stop
  /-- NACK (R97). -/
  | nack
  /-- ENC_G0 (R81). -/
  | encG0
  /-- ENC_G1 (R82). -/
  | encG1
  /-- ENC_G2 (R83). -/
  | encG2
  /-- ENC_G3 (R84). -/
  | encG3
  /-- ENC_RST (R85). -/
  | encRst
  /-- RESERVED (R69). -/
  | reserved
  deriving DecidableEq, Repr

/-- R6, R126: who takes a step. `controller` is the bus controller of the environment (R66). -/
inductive Agent where
  | bus
  | enc
  | controller
  deriving DecidableEq, Repr

/-- R67: which agent handles an operation; the reserved code belongs to none. -/
def Instr.agent : Instr → Option Agent
  | .wireAddr _ => some .controller
  | .wireOther _ => some .controller
  | .addrMatchW => some .bus
  | .addrMatchR => some .bus
  | .rxAddrLo _ => some .bus
  | .rxAddrHi _ => some .bus
  | .rxDataN _ => some .bus
  | .rxAddrC _ => some .bus
  | .rxPage _ => some .bus
  | .rxDataC _ => some .bus
  | .rxInvalid _ => some .bus
  | .txReq => some .bus
  | .stop => some .bus
  | .nack => some .bus
  | .encG0 => some .enc
  | .encG1 => some .enc
  | .encG2 => some .enc
  | .encG3 => some .enc
  | .encRst => some .enc
  | .reserved => none

end Sys2Proof
end

