-- ==== Sys2Proof/WellFormed.lean ====
section
/-! DEFINITION. Which instruction terms stand for an encoding of the spec, and in which context an operation
is the one an event word stands for (R70; the "state" column of spec/opcode_table.json). -/

namespace Sys2Proof

/-- What the role of an event word depends on: `(MODE, phase)` for RX (R70) and `est` for BYTE_READY (R67). -/
structure Context where
  mode : Mode
  phase : Phase
  est : EncState
  deriving DecidableEq, Repr

/-- R62: match `0xE8`, mask `0xFE`. -/
def isSlaveAddrByte (b : Byte) : Bool := (b &&& 0xFE#8) == 0xE8#8

/-- Operands in range. The one check: WIRE_OTHER is any address byte but the block's own (R63). -/
def Instr.wellFormed : Instr → Bool
  | .wireOther b => !isSlaveAddrByte b
  | .wireAddr _ => true
  | .addrMatchW => true
  | .addrMatchR => true
  | .rxAddrLo _ => true
  | .rxAddrHi _ => true
  | .rxDataN _ => true
  | .rxAddrC _ => true
  | .rxPage _ => true
  | .rxDataC _ => true
  | .rxInvalid _ => true
  | .txReq => true
  | .stop => true
  | .nack => true
  | .encG0 => true
  | .encG1 => true
  | .encG2 => true
  | .encG3 => true
  | .encRst => true
  | .reserved => true

/-- The "state" condition of each row of spec/opcode_table.json (R70 for RX, R81 to R85 for BYTE_READY). -/
def Instr.admittedIn (c : Context) : Instr → Bool
  | .rxAddrLo _ => c.mode == .native && c.phase == .addr
  | .rxAddrHi _ => c.mode == .native && c.phase == .addrHi
  | .rxDataN _ => c.mode == .native && c.phase == .data
  | .rxAddrC _ => c.mode == .compat && c.phase == .addr
  | .rxPage _ => c.mode == .compat && c.phase == .page
  | .rxDataC _ => c.mode == .compat && c.phase == .data
  | .rxInvalid _ => (c.mode == .native && c.phase == .page) || (c.mode == .compat && c.phase == .addrHi)
  | .encG0 => c.est == .g0
  | .encG1 => c.est == .g1
  | .encG2 => c.est == .g2
  | .encG3 => c.est == .g3
  | .encRst => c.est == .rst
  | .wireAddr _ => true
  | .wireOther _ => true
  | .addrMatchW => true
  | .addrMatchR => true
  | .txReq => true
  | .stop => true
  | .nack => true
  | .reserved => true

end Sys2Proof
end

