-- ==== Sys2Proof/Decode.lean ====
section
/-! DEFINITION. Decoding (spec/30_encoding.md R62 to R70) and, after it, the encoder. Every address byte and
every one of the 2048 event words decodes to exactly one operation (R68); the reserved code decodes to
`reserved`, which the machine refuses (R69). The role of RX and of BYTE_READY is decided by the context (R70). -/

namespace Sys2Proof

/-- Why a row of bits handed to the table's front end is no input of the block. -/
inductive DecodeError where
  /-- The width is neither the 8 bits of WIRE8 nor the 11 bits of EV11 (16 in whole bytes). Safe: refused. -/
  | badWidth (nbits : Nat)
  /-- The value has bits the format has no place for. Safe: refused. -/
  | tooWide (nbits w : Nat)
  deriving DecidableEq, Repr

/-- `E[10:8]`, the event code (R67). -/
def eventCode (e : EventWord) : BitVec 3 := e.extractLsb' 8 3

/-- `E[7:0]`, the data byte (R67). -/
def eventData (e : EventWord) : Byte := e.extractLsb' 0 8

/-- The event word of a code and a data byte (R67). -/
def eventWord (code : BitVec 3) (data : Byte) : EventWord := code ++ data

/-- R62, R63: an address byte. Bit 0 is the direction, 0 for a write. -/
def decodeWire (b : Byte) : Instr :=
  if isSlaveAddrByte b then .wireAddr (if b.getLsbD 0 then .r else .w) else .wireOther b

/-- R70: the role of a received byte, by `(MODE, phase)`. -/
def decodeRx (mode : Mode) (phase : Phase) (b : Byte) : Instr :=
  match mode, phase with
  | .native, .addr => .rxAddrLo b
  | .native, .addrHi => .rxAddrHi b
  | .native, .data => .rxDataN b
  | .native, .page => .rxInvalid b
  | .compat, .addr => .rxAddrC b
  | .compat, .page => .rxPage b
  | .compat, .data => .rxDataC b
  | .compat, .addrHi => .rxInvalid b

/-- R67: BYTE_READY is handled by the rule that `est` selects (R81 to R85). -/
def decodeTick (est : EncState) : Instr :=
  match est with
  | .g0 => .encG0
  | .g1 => .encG1
  | .g2 => .encG2
  | .g3 => .encG3
  | .rst => .encRst

/-- R67: the event of a word. Data other than RX's is ignored (R68). -/
def decodeEvent (c : Context) (e : EventWord) : Instr :=
  let code := eventCode e
  if code = 0b000 then .addrMatchW
  else if code = 0b001 then .addrMatchR
  else if code = 0b010 then decodeRx c.mode c.phase (eventData e)
  else if code = 0b011 then .txReq
  else if code = 0b100 then .stop
  else if code = 0b101 then .nack
  else if code = 0b110 then decodeTick c.est
  else .reserved

/-- The decoder, total on every input. -/
def decode (c : Context) (w : Input) : Instr :=
  match w with
  | .wire b => decodeWire b
  | .event e => decodeEvent c e

/-- The input that a row of `nbits` bits of value `w` stands for: 8 bits are an address byte, 11 bits (16 in
whole bytes) an event word; anything else is rejected by name. -/
def inputOfBits (nbits w : Nat) : Except DecodeError Input :=
  if nbits = 8 then
    if w < 256 then .ok (.wire (BitVec.ofNat 8 w)) else .error (.tooWide nbits w)
  else if nbits = 11 ∨ nbits = 16 then
    if w < 2048 then .ok (.event (BitVec.ofNat 11 w)) else .error (.tooWide nbits w)
  else .error (.badWidth nbits)

/-- The context right after reset of the default build: `NATIVE`, `ADDR`, `RST` (R30, R36; log 6). -/
def Context.reset : Context := { mode := Config.default.mode, phase := .addr, est := .rst }

/-- The host's front end: the operation a table word stands for. The seven RX rows of the table share one
word, as do the five BYTE_READY rows (R70); without a state, the role is the one of the reset context (log 6). -/
def decodeTableWord (nbits w : Nat) : Option Instr :=
  match inputOfBits nbits w with
  | .ok i => some (decode Context.reset i)
  | .error _ => none

/-- R62: `0xE8` for a write and `0xE9` for a read, that is `addr7 : rw`. -/
def addrByte (d : Dir) : Byte :=
  slaveAddr ++ (match d with | .w => 0#1 | .r => 1#1)

/-- The words of an instruction, with `0x00` in a data field the code ignores (R68). -/
def encode (i : Instr) : Input :=
  match i with
  | .wireAddr d => .wire (addrByte d)
  | .wireOther b => .wire b
  | .addrMatchW => .event (eventWord 0b000 0)
  | .addrMatchR => .event (eventWord 0b001 0)
  | .rxAddrLo b => .event (eventWord 0b010 b)
  | .rxAddrHi b => .event (eventWord 0b010 b)
  | .rxDataN b => .event (eventWord 0b010 b)
  | .rxAddrC b => .event (eventWord 0b010 b)
  | .rxPage b => .event (eventWord 0b010 b)
  | .rxDataC b => .event (eventWord 0b010 b)
  | .rxInvalid b => .event (eventWord 0b010 b)
  | .txReq => .event (eventWord 0b011 0)
  | .stop => .event (eventWord 0b100 0)
  | .nack => .event (eventWord 0b101 0)
  | .encG0 => .event (eventWord 0b110 0)
  | .encG1 => .event (eventWord 0b110 0)
  | .encG2 => .event (eventWord 0b110 0)
  | .encG3 => .event (eventWord 0b110 0)
  | .encRst => .event (eventWord 0b110 0)
  | .reserved => .event (eventWord 0b111 0)

/-- An input as the table numbers it: its width and its value. -/
def Input.tableWord : Input → Nat × Nat
  | .wire b => (8, b.toNat)
  | .event e => (11, e.toNat)

/-- A word's canonical form: the data field is `0x00` unless the code is RX's (R68). -/
def Input.canonical : Input → Input
  | .wire b => .wire b
  | .event e => .event (if eventCode e = 0b010 then e else eventWord (eventCode e) 0)

/-- The "match" and "mask" of each row of spec/opcode_table.json, as a test on an input. -/
def Instr.rowAccepts (i : Instr) (w : Input) : Bool :=
  match w with
  | .wire b =>
    match i with
    | .wireAddr _ => (b &&& 0xFE#8) == 0xE8#8
    | .wireOther _ => (b &&& 0xFE#8) != 0xE8#8
    | _ => false
  | .event e =>
    let masked := e &&& 0x700#11
    match i with
    | .wireAddr _ => false
    | .wireOther _ => false
    | .addrMatchW => masked == 0x000#11
    | .addrMatchR => masked == 0x100#11
    | .rxAddrLo _ => masked == 0x200#11
    | .rxAddrHi _ => masked == 0x200#11
    | .rxDataN _ => masked == 0x200#11
    | .rxAddrC _ => masked == 0x200#11
    | .rxPage _ => masked == 0x200#11
    | .rxDataC _ => masked == 0x200#11
    | .rxInvalid _ => masked == 0x200#11
    | .txReq => masked == 0x300#11
    | .stop => masked == 0x400#11
    | .nack => masked == 0x500#11
    | .encG0 => masked == 0x600#11
    | .encG1 => masked == 0x600#11
    | .encG2 => masked == 0x600#11
    | .encG3 => masked == 0x600#11
    | .encRst => masked == 0x600#11
    | .reserved => masked == 0x700#11

end Sys2Proof
end

