-- ==== Sys2Proof/Machine/State.lean ====
section
/-! DEFINITION. The architectural state (spec/10_state.md), the reasons a step can stop, and the state after
reset (spec/70_reset_and_hazards.md R131). -/

namespace Sys2Proof.Machine

/-- The bytes of the Frame Buffer that are not `0x00`, by offset, strictly rising (R22, R23; log 17). -/
abbrev Memory := List Host.Cell

/-- Why the machine would stop with a fault. The block itself has no fault state (R114). -/
inductive Fault where
  /-- Raised by `MemRead` and `MemWrite` at an offset outside `0 .. CAP-1`, where R17 does not define them.
  Safe: no rule of the block makes such an access, and none is given a value. -/
  | bufferBounds (i : Nat)
  deriving DecidableEq, Repr

/-- Why the machine gives an input no meaning. Each but the first is asked for by the spec. -/
inductive Refusal where
  /-- An instruction without a meaning yet, by its mnemonic. Safe. No arm of the finished model uses it. -/
  | notModelled (mnemonic : String)
  /-- Raised by RESERVED, event code `0b111` (R69). Safe: the ports never deliver it. -/
  | reservedEvent
  /-- Raised by RX_INVALID: RX with an impossible `(MODE, phase)` pair (R70). Safe: no rule produces one. -/
  | impossibleRole
  /-- Raised by an encoder tick in a state that breaks the invariant of R86. Safe: such a state is unreachable. -/
  | encoderInvariant
  /-- Raised by `step` for a configuration outside the domain of R8. Safe. -/
  | configDomain
  deriving DecidableEq, Repr

/-- Everything the spec gives the machine, the configuration it is built with, and what the environment has
raised but the block has not yet handled. -/
structure State where
  /-- The configuration, fixed for the life of the block (R129; log 1). -/
  cfg : Config
  /-- The Frame Buffer `buf` (R22). -/
  buf : Memory
  /-- The register pointer `ptr` (R25). -/
  ptr : Half
  /-- The address-phase state `phase` (R28). -/
  phase : Phase
  /-- The current page `page` (R31); constantly `0x00` in `NATIVE`, where the spec has none (log 9). -/
  page : Byte
  /-- The encoder state `est` (R32). -/
  est : EncState
  /-- The index of the byte being encoded, `idx` (R33). -/
  idx : Half
  /-- The reset-gap countdown `cnt` (R34). -/
  cnt : Nat
  /-- The latched source byte `cur` (R35); constantly `0x00` with `PER_GROUP`, where the spec has none (log 9). -/
  cur : Byte
  /-- The bytes replied so far, oldest first (R42). -/
  replies : List Byte
  /-- The bytes emitted so far, oldest first (R42). -/
  emitted : List Byte
  /-- The model's own: what is raised and not yet handled, oldest first (R117; log 3). -/
  inputs : List Input
  deriving DecidableEq, Repr

/-- `CAP` of the state's configuration (R7). -/
def State.cap (s : State) : Nat := s.cfg.cap

/-- What the role of the next event depends on (R70). -/
def State.ctx (s : State) : Context := { mode := s.cfg.mode, phase := s.phase, est := s.est }

/-- The state right after reset of a block with configuration `c` (R131), no event raised yet (R133). -/
def State.resetOf (c : Config) : State where
  cfg := c
  buf := []
  ptr := 0x0000
  phase := .addr
  page := 0x00
  est := .rst
  idx := 0
  cnt := c.resetBytes
  cur := 0x00
  replies := []
  emitted := []
  inputs := []

/-- The machine right after reset, for the default build of log 2. -/
def State.reset : State := State.resetOf Config.default

/-! The named updates, one per field that a step writes. -/

def State.setBuf (s : State) (m : Memory) : State := { s with buf := m }
def State.setPtr (s : State) (p : Half) : State := { s with ptr := p }
def State.setPhase (s : State) (p : Phase) : State := { s with phase := p }
def State.setPage (s : State) (b : Byte) : State := { s with page := b }
def State.setEst (s : State) (e : EncState) : State := { s with est := e }
def State.setIdx (s : State) (i : Half) : State := { s with idx := i }
def State.setCnt (s : State) (n : Nat) : State := { s with cnt := n }
def State.setCur (s : State) (b : Byte) : State := { s with cur := b }
def State.pushReply (s : State) (b : Byte) : State := { s with replies := s.replies ++ [b] }
def State.pushEmit (s : State) (b : Byte) : State := { s with emitted := s.emitted ++ [b] }
def State.setInputs (s : State) (l : List Input) : State := { s with inputs := l }

end Sys2Proof.Machine
end

