-- ==== Sys2Proof/Machine/Ops.lean ====
section
/-! DEFINITION. The primitives of spec/00_scope.md R17 over the state, the reads and writes of the Frame Buffer,
and the guards under which the spec has a model refuse. `raise` has no definition: no rule of the block uses it
(R17, R114), so there is no exception to take and none to return from. -/

namespace Sys2Proof.Machine

/-- The outcome of an operation. -/
abbrev Result := Host.Outcome State Fault Refusal

/-- What an offset that nothing has written reads as: the reset value of the buffer (R23, R56). -/
def Memory.unlisted : Byte := 0x00

/-- The byte at offset `i`. -/
def Memory.read : Memory → Nat → Byte
  | [], _ => Memory.unlisted
  | (a, v) :: m, i => if a = i then v else Memory.read m i

/-- Put an entry in its place by offset. -/
def Memory.place : Memory → Nat → Byte → Memory
  | [], i, v => [(i, v)]
  | (a, w) :: m, i, v => if i < a then (i, v) :: (a, w) :: m else (a, w) :: Memory.place m i v

/-- The memory with offset `i` no longer listed. -/
def Memory.drop (m : Memory) (i : Nat) : Memory := m.filter fun c => c.1 ≠ i

/-- Write `v` at offset `i`, keeping the canonical form: a byte equal to what an unlisted offset reads as is
not listed. -/
def Memory.write (m : Memory) (i : Nat) (v : Byte) : Memory :=
  if v = Memory.unlisted then Memory.drop m i else Memory.place (Memory.drop m i) i v

/-- Offsets at least `lo`, strictly rising, and no entry equal to what an unlisted offset reads as. -/
def Memory.risingFrom : Nat → Memory → Bool
  | _, [] => true
  | lo, (a, v) :: m => decide (lo ≤ a) && v != Memory.unlisted && Memory.risingFrom (a + 1) m

/-- The canonical form of a memory. -/
def Memory.wf (m : Memory) : Bool := Memory.risingFrom 0 m

/-- Every listed offset is below `n` (R22: the buffer has `CAP` bytes). -/
def Memory.within (n : Nat) (m : Memory) : Bool := m.all fun c => decide (c.1 < n)

/-- `MemRead(i, 1)`, defined for `0 <= i < CAP` (R17); `k` goes on with the byte. -/
def memRead (s : State) (i : Nat) (k : Byte → Result) : Result :=
  if i < s.cap then k (s.buf.read i) else .fault (.bufferBounds i)

/-- `MemWrite(i, 1, v)`, defined for `0 <= i < CAP` (R17); `k` goes on with the new state. -/
def memWrite (s : State) (i : Nat) (v : Byte) (k : State → Result) : Result :=
  if i < s.cap then k (s.setBuf (s.buf.write i v)) else .fault (.bufferBounds i)

/-- `reply(b)`: hand `b` to the bus controller (R17). -/
def reply (s : State) (b : Byte) : State := s.pushReply b

/-- `emit(b)`: hand `b` to the serial transmitter (R17). -/
def emit (s : State) (b : Byte) : State := s.pushEmit b

/-- `drop`: no state change and nothing reported (R17). -/
def drop (s : State) : Result := .next s

/-- The bus controller raises an event: it is pending, ahead of what comes later on the wire (R66, R117). -/
def raiseEvent (s : State) (e : EventWord) : State := s.setInputs (.event e :: s.inputs)

/-- The next thing to handle, and the state with it taken off (R117: completing a rule clears its event). -/
def takeInput (s : State) : Option (Input × State) :=
  match s.inputs with
  | [] => none
  | w :: rest => some (w, s.setInputs rest)

/-- R8: a configuration outside the domain is refused. -/
def guardConfig (s : State) (k : Result) : Result :=
  if s.cfg.inDomain = true then k else .refused .configDomain

/-- R86, as far as an emit tick depends on it: `idx < CAP`. -/
def guardIdx (s : State) (k : Result) : Result :=
  if s.idx.toNat < s.cap then k else .refused .encoderInvariant

/-- R86, as far as a gap tick depends on it: `idx < CAP` and `1 <= cnt <= RESET_BYTES`. -/
def guardGap (s : State) (k : Result) : Result :=
  if s.idx.toNat < s.cap ∧ 1 ≤ s.cnt ∧ s.cnt ≤ s.cfg.resetBytes then k else .refused .encoderInvariant

end Sys2Proof.Machine
end

