-- ==== Sys2Proof/Machine/Flags.lean ====
section
/-! DEFINITION. The block has no status flags or condition codes (spec/10_state.md R21); no operation writes one.
What stands here are the conditions its rules test. -/

namespace Sys2Proof.Machine

/-- R44: a buffer offset is in bounds. -/
def inBounds (c : Config) (i : Nat) : Bool := decide (i < c.cap)

/-- R72: any page value other than `0x00` closes the pixel data. -/
def pageClosed (s : State) : Bool := s.page != 0x00

/-- R109: the legacy address is one of the legacy chip's non-pixel registers. -/
def belowBase (c : Config) (a : Half) : Bool := decide (a.toNat < c.colorBase.toNat)

/-- R107: an address match clears the page. -/
def pageClearedByMatch (c : Config) : Bool := c.mode == .compat && c.pageScope == .transaction

/-- R84: more of the buffer is left after byte `idx`. -/
def moreBytes (c : Config) (idx : Half) : Bool := decide (idx.toNat + 1 < c.cap)

end Sys2Proof.Machine
end

