-- ==== Sys2Proof/Machine/Operands.lean ====
section
/-! DEFINITION. How operands are formed: the pointer (spec/30_encoding.md R71, spec/10_state.md R26), the 2-bit
groups and the byte they are taken from (spec/40_serial_encoder.md R79, R80), the remap and the offsets a data
byte is stored to (spec/41_bus_slave.md R94, spec/42_remap_shim.md R108, R109). -/

namespace Sys2Proof.Machine

/-- R71: the pointer after the native low byte, or after the compatible address byte. -/
def ptrOfByte (b : Byte) : Half := zext16 b

/-- R71: the pointer after the native high byte, `hi : lo` with `lo` the low byte it holds. -/
def ptrOfHigh (hi : Byte) (p : Half) : Half := concat16 hi (lowByte p)

/-- R26: `inc(p) = (p + 1) mod 2^PW`. -/
def inc (c : Config) (p : Half) : Half := BitVec.ofNat 16 ((p.toNat + 1) % 2 ^ c.ptrWidth)

/-- R79: group 0, `v[7:6]`. -/
def group0 (v : Byte) : BitVec 2 := v.extractLsb' 6 2

/-- R79: group 1, `v[5:4]`. -/
def group1 (v : Byte) : BitVec 2 := v.extractLsb' 4 2

/-- R79: group 2, `v[3:2]`. -/
def group2 (v : Byte) : BitVec 2 := v.extractLsb' 2 2

/-- R79: group 3, `v[1:0]`. -/
def group3 (v : Byte) : BitVec 2 := v.extractLsb' 0 2

/-- R79: the four encoded bytes of a source byte, in the order they are emitted. -/
def encodeByte (l : Lut) (v : Byte) : List Byte :=
  [l.get (group0 v), l.get (group1 v), l.get (group2 v), l.get (group3 v)]

/-- R80: the byte that groups 1, 2 and 3 are taken from, read afresh or from the latch. -/
def fetchLater (s : State) (k : Byte → Result) : Result :=
  match s.cfg.encFetch with
  | .perGroup => memRead s s.idx.toNat k
  | .latched => k s.cur

/-- R80: the byte `fetchLater` goes on with when `idx` is in bounds. -/
def laterByte (s : State) : Byte :=
  match s.cfg.encFetch with
  | .perGroup => s.buf.read s.idx.toNat
  | .latched => s.cur

/-- R80: the `G0` tick keeps the byte it read when `ENC_FETCH = LATCHED`. -/
def latch (s : State) (v : Byte) : State :=
  match s.cfg.encFetch with
  | .perGroup => s
  | .latched => s.setCur v

/-- R108: `SWAP = [1, 0, 2]`. -/
def swap (c : Nat) : Nat := if c = 0 then 1 else if c = 1 then 0 else c

/-- R108: `remap(r) = 3 * (r div 3) + SWAP[r mod 3]`. -/
def remap (r : Nat) : Nat := 3 * (r / 3) + swap (r % 3)

/-- R94: the offset a native data byte is stored to, if it is stored. -/
def nativeTarget (s : State) : Option Nat :=
  if inBounds s.cfg s.ptr.toNat = true then some s.ptr.toNat else none

/-- R109: the offset a compatible data byte is stored to, if it is stored. -/
def compatTarget (s : State) : Option Nat :=
  if pageClosed s = true then none
  else if belowBase s.cfg s.ptr = true then none
  else
    let t := remap (s.ptr.toNat - s.cfg.colorBase.toNat)
    if inBounds s.cfg t = true then some t else none

/-- R24: the offset an operation stores to in state `s`; only data bytes store. -/
def storeTarget (i : Instr) (s : State) : Option Nat :=
  match i with
  | .rxDataN _ => nativeTarget s
  | .rxDataC _ => compatTarget s
  | .wireAddr _ => none
  | .wireOther _ => none
  | .addrMatchW => none
  | .addrMatchR => none
  | .rxAddrLo _ => none
  | .rxAddrHi _ => none
  | .rxAddrC _ => none
  | .rxPage _ => none
  | .rxInvalid _ => none
  | .txReq => none
  | .stop => none
  | .nack => none
  | .encG0 => none
  | .encG1 => none
  | .encG2 => none
  | .encG3 => none
  | .encRst => none
  | .reserved => none

/-- R107: what an address match does to the page. -/
def matchPage (s : State) : State :=
  if pageClearedByMatch s.cfg = true then s.setPage 0x00 else s

/-- R91: what a read-direction address match does to the pointer. -/
def matchReadPtr (s : State) : State :=
  match s.cfg.ptrOnReadMatch with
  | .clear => s.setPtr 0x0000
  | .keep => s

/-- R62, R66: the event word the bus controller raises for the block's own address byte. -/
def matchEvent (d : Dir) : EventWord :=
  match d with
  | .w => eventWord 0b000 0
  | .r => eventWord 0b001 0

end Sys2Proof.Machine
end

