-- ==== Sys2Proof/Machine/BusController.lean ====
section
/-! DEFINITION. The wire rows: what the two-wire bus controller makes of an address byte
(spec/30_encoding.md R62, R63, R66). -/

namespace Sys2Proof.Machine

/-- WIRE_ADDR: a matched address byte gives `ADDR_MATCH(W)` or `ADDR_MATCH(R)` (R62, R66; log 7). -/
def execWireAddr (d : Dir) (s : State) : Result := .next (raiseEvent s (matchEvent d))

/-- WIRE_OTHER: any other address byte raises no event (R63). -/
def execWireOther (_b : Byte) (s : State) : Result := .next s

end Sys2Proof.Machine
end

