-- ==== Sys2Proof/Machine/BusSlave.lean ====
section
/-! DEFINITION. The Register Protocol Slave (spec/41_bus_slave.md R90 to R97) and the two refusals of the bus
port (spec/30_encoding.md R69, R70). Which operation an event is, is decided by the decoder (R70); a meaning
here is its rule's pseudocode (log 6). -/

namespace Sys2Proof.Machine

/-- ADDR_MATCH_W (R90): a write transaction starts. -/
def execAddrMatchW (s : State) : Result :=
  .next (matchPage ((s.setPhase .addr).setPtr 0x0000))

/-- ADDR_MATCH_R (R91): a read transaction starts. -/
def execAddrMatchR (s : State) : Result :=
  .next (matchPage (matchReadPtr (s.setPhase .addr)))

/-- RX_ADDR_LO (R92): the native low address byte. -/
def execRxAddrLo (b : Byte) (s : State) : Result :=
  .next ((s.setPtr (ptrOfByte b)).setPhase .addrHi)

/-- RX_ADDR_HI (R93): the native high address byte. -/
def execRxAddrHi (b : Byte) (s : State) : Result :=
  .next ((s.setPtr (ptrOfHigh b s.ptr)).setPhase .data)

/-- RX_DATA_N (R94): a native data byte. -/
def execRxDataN (b : Byte) (s : State) : Result :=
  match nativeTarget s with
  | some t => memWrite s t b fun s' => .next (s'.setPtr (s'.ptr + 1))
  | none => drop s

/-- TX_REQ (R95): the master reads one byte, in both modes and every phase. -/
def execTxReq (s : State) : Result :=
  if inBounds s.cfg s.ptr.toNat = true then
    memRead s s.ptr.toNat fun v => .next ((reply s v).setPtr (inc s.cfg s.ptr))
  else .next (reply s 0x00)

/-- STOP (R96): no state change. -/
def execStop (s : State) : Result := drop s

/-- NACK (R97): no state change. -/
def execNack (s : State) : Result := drop s

/-- RX_INVALID (R70): an impossible `(MODE, phase)` pair is refused. -/
def execRxInvalid (_b : Byte) (_s : State) : Result := .refused .impossibleRole

/-- RESERVED (R69): event code `0b111` is refused. -/
def execReserved (_s : State) : Result := .refused .reservedEvent

end Sys2Proof.Machine
end

