-- ==== Sys2Proof/Machine/Encoder.lean ====
section
/-! DEFINITION. The Serial Bit Encoder (spec/40_serial_encoder.md R81 to R85). -/

namespace Sys2Proof.Machine

/-- ENC_G0 (R81): emit group 0 of byte `idx`. -/
def execEncG0 (s : State) : Result :=
  guardIdx s (memRead s s.idx.toNat fun v =>
    .next ((emit (latch s v) (s.cfg.lut.get (group0 v))).setEst .g1))

/-- ENC_G1 (R82): emit group 1 of byte `idx`. -/
def execEncG1 (s : State) : Result :=
  guardIdx s (fetchLater s fun v => .next ((emit s (s.cfg.lut.get (group1 v))).setEst .g2))

/-- ENC_G2 (R83): emit group 2 of byte `idx`. -/
def execEncG2 (s : State) : Result :=
  guardIdx s (fetchLater s fun v => .next ((emit s (s.cfg.lut.get (group2 v))).setEst .g3))

/-- R84: after group 3, the next byte, or the gap after the last one. -/
def advanceByte (s : State) : State :=
  if moreBytes s.cfg s.idx = true then (s.setIdx (s.idx + 1)).setEst .g0
  else ((s.setIdx 0).setCnt s.cfg.resetBytes).setEst .rst

/-- ENC_G3 (R84): emit group 3 of byte `idx`, then advance. -/
def execEncG3 (s : State) : Result :=
  guardIdx s (fetchLater s fun v => .next (advanceByte (emit s (s.cfg.lut.get (group3 v)))))

/-- R85: the countdown; the tick that brings it to zero ends the gap. -/
def countDown (s : State) : State :=
  let s' := s.setCnt (s.cnt - 1)
  if s'.cnt = 0 then (s'.setIdx 0).setEst .g0 else s'

/-- ENC_RST (R85): emit one zero byte of the gap. -/
def execEncRst (s : State) : Result := guardGap s (.next (countDown (emit s 0x00)))

end Sys2Proof.Machine
end

