-- ==== Sys2Proof/Machine/RemapShim.lean ====
section
/-! DEFINITION. The Compatibility Remap Shim (spec/42_remap_shim.md R105, R106, R109). -/

namespace Sys2Proof.Machine

/-- RX_ADDR_C (R105): the legacy address byte; `PAGE_SEL` is recognised only here. -/
def execRxAddrC (b : Byte) (s : State) : Result :=
  .next ((s.setPtr (ptrOfByte b)).setPhase (if b = s.cfg.pageSel then .page else .data))

/-- RX_PAGE (R106): the page value, consumed and never stored. -/
def execRxPage (b : Byte) (s : State) : Result :=
  .next (((s.setPage b).setPtr (inc s.cfg s.ptr)).setPhase .data)

/-- RX_DATA_C (R109): a legacy data byte; the pointer advances whether it is stored or dropped. -/
def execRxDataC (b : Byte) (s : State) : Result :=
  match compatTarget s with
  | some t => memWrite s t b fun s' => .next (s'.setPtr (inc s.cfg s.ptr))
  | none => .next (s.setPtr (inc s.cfg s.ptr))

end Sys2Proof.Machine
end

