-- ==== Sys2Proof/Machine/Dispatch.lean ====
section
/-! DEFINITION. One arm per operation of spec/opcode_table.json. -/

namespace Sys2Proof.Machine

def exec (i : Instr) (s : State) : Host.Outcome State Fault Refusal :=
  match i with
  -- the bus controller's wire rows
  | .wireAddr d => Sys2Proof.Machine.execWireAddr d s
  | .wireOther b => Sys2Proof.Machine.execWireOther b s
  -- the Register Protocol Slave
  | .addrMatchW => Sys2Proof.Machine.execAddrMatchW s
  | .addrMatchR => Sys2Proof.Machine.execAddrMatchR s
  | .rxAddrLo b => Sys2Proof.Machine.execRxAddrLo b s
  | .rxAddrHi b => Sys2Proof.Machine.execRxAddrHi b s
  | .rxDataN b => Sys2Proof.Machine.execRxDataN b s
  -- the Compatibility Remap Shim
  | .rxAddrC b => Sys2Proof.Machine.execRxAddrC b s
  | .rxPage b => Sys2Proof.Machine.execRxPage b s
  | .rxDataC b => Sys2Proof.Machine.execRxDataC b s
  -- refused by the spec
  | .rxInvalid b => Sys2Proof.Machine.execRxInvalid b s
  -- the read path, stop and not-acknowledge
  | .txReq => Sys2Proof.Machine.execTxReq s
  | .stop => Sys2Proof.Machine.execStop s
  | .nack => Sys2Proof.Machine.execNack s
  -- the Serial Bit Encoder
  | .encG0 => Sys2Proof.Machine.execEncG0 s
  | .encG1 => Sys2Proof.Machine.execEncG1 s
  | .encG2 => Sys2Proof.Machine.execEncG2 s
  | .encG3 => Sys2Proof.Machine.execEncG3 s
  | .encRst => Sys2Proof.Machine.execEncRst s
  -- refused by the spec
  | .reserved => Sys2Proof.Machine.execReserved s

end Sys2Proof.Machine
end

