-- ==== Sys2Proof/Machine/Step.lean ====
section
/-! DEFINITION. One step of the machine: the oldest pending input is taken off, decoded in the state as it
stands, and handled to completion (R18, R70, R117, R121). -/

namespace Sys2Proof.Machine

/-- One step. With nothing pending, nothing happens (log 4). A configuration outside the domain is refused (R8). -/
def step (s : State) : Host.Outcome State Fault Refusal :=
  guardConfig s
    (match takeInput s with
    | none => .next s
    | some (w, s') => exec (decode s.ctx w) s')

/-- `s` with the input of a table word pending ahead of everything else, so that the next step handles it
(log 3). A row of bits that is no input leaves `s` as it is. -/
def State.withFetchWord (s : State) (nbits w : Nat) : State :=
  match inputOfBits nbits w with
  | .ok i => s.setInputs (i :: s.inputs)
  | .error _ => s

end Sys2Proof.Machine
end

