-- ==== Sys2Proof/Machine/Line.lean ====
section
/-! DEFINITION. The output stream as the rules describe it: one pass and one gap (spec/40_serial_encoder.md R87),
the bits the serial transmitter shifts out (spec/30_encoding.md R74) and the timing figures
(spec/70_reset_and_hazards.md R142). Views of the state and the configuration; no step reads them. -/

namespace Sys2Proof.Machine

/-- R87: the encoded bytes of buffer bytes `lo .. lo + n - 1`. -/
def passFrom (s : State) (lo n : Nat) : List Byte :=
  (List.range' lo n).flatMap fun i => encodeByte s.cfg.lut (s.buf.read i)

/-- R87: the `4 * CAP` bytes of one pass over the buffer as it stands. -/
def passBytes (s : State) : List Byte := passFrom s 0 s.cap

/-- R87: the bytes of one gap. -/
def gapBytes (c : Config) : List Byte := List.replicate c.resetBytes 0x00

/-- R74: the bits of one byte on the line, most significant first; `true` drives the line high. -/
def lineBits (b : Byte) : List Bool :=
  [b.getLsbD 7, b.getLsbD 6, b.getLsbD 5, b.getLsbD 4, b.getLsbD 3, b.getLsbD 2, b.getLsbD 1, b.getLsbD 0]

/-- R74: bytes follow each other on the line with no gap. -/
def lineOf (bs : List Byte) : List Bool := bs.flatMap lineBits

/-- The line levels so far, one entry per bit time. -/
def State.line (s : State) : List Bool := lineOf s.emitted

/-- R142: the bit times of one LED-protocol bit, one 4-bit symbol. -/
def symbolBits : Nat := 4

/-- R142: the bit times for which a 4-bit symbol is high. -/
def highBits (sym : BitVec 4) : Nat :=
  (sym.getLsbD 0).toNat + (sym.getLsbD 1).toNat + (sym.getLsbD 2).toNat + (sym.getLsbD 3).toNat

/-- R73: the high share of a 4-bit slot is about `thirds` thirds of it, that is within one twelfth of the slot, the
distance of the default symbols (1/4 and 3/4) from their shares (log 13). In twelfths: three for each bit time, four
for each third. -/
def aboutThirds (thirds : Nat) (sym : BitVec 4) : Bool :=
  decide (4 * thirds ≤ 3 * highBits sym + 1) && decide (3 * highBits sym ≤ 4 * thirds + 1)

/-- R73: `SYM(0)` is about 1/3 high and `SYM(1)` about 2/3. -/
def lutRatios (l : Lut) : Bool := aboutThirds 1 l.sym0 && aboutThirds 2 l.sym1

/-- R73, whole: the two-symbol structure, each symbol starting high, with the high shares of a 0 and of a 1. -/
def lutEncodesBits (l : Lut) : Bool := l.structured && lutRatios l

/-- R142: the bit times of one source byte. -/
def sourceByteBits : Nat := 32

/-- R142: the bit times of one pass. -/
def passBits (c : Config) : Nat := 32 * c.cap

/-- R142: the bit times of one gap. -/
def gapBits (c : Config) : Nat := 8 * c.resetBytes

/-- R142: the bit times of one scan period. -/
def scanBits (c : Config) : Nat := 32 * c.cap + 8 * c.resetBytes

/-- A number of bit times in picoseconds, at the `T_BIT` of the configuration (R13). -/
def bitsToPs (c : Config) (n : Nat) : Nat := n * c.tBitPs

end Sys2Proof.Machine
end

