-- ==== Sys2Proof/Machine/Transactions.lean ====
section
/-! DEFINITION. How the two-wire bus controller derives the events of a transaction (spec/30_encoding.md R63, R66),
the transaction notation (R77) and the pseudo-transactions (R78). Functions to lists of inputs, for claims about
whole transactions; no step reads them. -/

namespace Sys2Proof.Machine

/-- R77: what happens on the wire, and the output ticks between. -/
inductive Token where
  /-- A start or repeated start, then the address byte `b` (`S W` is `start 0xE8`, `S R` is `start 0xE9`). -/
  | start (b : Byte)
  /-- The master sends a byte. -/
  | send (b : Byte)
  /-- `rd`: the master reads a byte and acknowledges it. -/
  | rd
  /-- `rd!`: the master reads a byte and does not acknowledge it. -/
  | rdLast
  /-- A prefetching controller's extra request, whose reply is never sent (R66). -/
  | prefetch
  /-- `P`: a stop. -/
  | stop
  /-- `tick×k`: `k` output byte times. -/
  | tick (k : Nat)
  deriving DecidableEq, Repr

/-- The event word of RX(b) (R67). -/
def rxEvent (b : Byte) : Input := .event (eventWord 0b010 b)

/-- The event word of TX_REQ (R67). -/
def txReqEvent : Input := .event (eventWord 0b011 0)

/-- The event word of STOP (R67). -/
def stopEvent : Input := .event (eventWord 0b100 0)

/-- The event word of NACK (R67). -/
def nackEvent : Input := .event (eventWord 0b101 0)

/-- The event word of BYTE_READY (R67). -/
def tickEvent : Input := .event (eventWord 0b110 0)

/-- `k` output byte times (R77). -/
def ticks (k : Nat) : List Input := List.replicate k tickEvent

/-- R62, R63: the direction in which an address byte selects the block, if it does. -/
def selects (b : Byte) : Option Dir :=
  if isSlaveAddrByte b = true then some (if b.getLsbD 0 then .r else .w) else none

/-- R63, R66: the events of one token, given how the transaction under way selects the block, and how it is
selected after the token. What follows another address does not reach the block (log 20). -/
def tokenEvents (sel : Option Dir) (t : Token) : List Input × Option Dir :=
  match t with
  | .start b =>
    match selects b with
    | some d => ([.event (matchEvent d)], some d)
    | none => ([], none)
  | .send b => (if sel = some .w then [rxEvent b] else [], sel)
  | .rd => (if sel = some .r then [txReqEvent] else [], sel)
  | .rdLast => (if sel = some .r then [txReqEvent, nackEvent] else [], sel)
  | .prefetch => (if sel = some .r then [txReqEvent] else [], sel)
  | .stop => (if sel.isSome then [stopEvent] else [], none)
  | .tick k => (ticks k, sel)

/-- R66: the events of a list of tokens, in wire order. -/
def wireEvents (sel : Option Dir) : List Token → List Input
  | [] => []
  | t :: ts => (tokenEvents sel t).1 ++ wireEvents (tokenEvents sel t).2 ts

/-- The events of tokens that begin with the bus idle. -/
def eventsOf (ts : List Token) : List Input := wireEvents none ts

/-- `a[15:8]`. -/
def highByte (a : Half) : Byte := a.extractLsb' 8 8

/-- R64: the address phase of a native write. -/
def addrPhase16 (a : Half) : List Token := [.start (addrByte .w), .send (lowByte a), .send (highByte a)]

/-- `n` reads, the last one not acknowledged (R78, `n >= 1`). -/
def readTokens (n : Nat) : List Token := List.replicate (n - 1) .rd ++ [.rdLast]

/-- R78: `WR16 a, d0..dk`. -/
def wr16 (a : Half) (ds : List Byte) : List Token := addrPhase16 a ++ ds.map .send ++ [.stop]

/-- R78: `RD16 a, n`. -/
def rd16 (a : Half) (n : Nat) : List Token :=
  addrPhase16 a ++ [.start (addrByte .r)] ++ readTokens n ++ [.stop]

/-- R78: `RD n`. -/
def rdFrom (n : Nat) : List Token := [.start (addrByte .r)] ++ readTokens n ++ [.stop]

/-- R78: `WR8 a, d0..dk`. -/
def wr8 (a : Byte) (ds : List Byte) : List Token :=
  [.start (addrByte .w), .send a] ++ ds.map .send ++ [.stop]

/-- R78: `PAGESEL pg`. -/
def pagesel (c : Config) (pg : Byte) : List Token :=
  [.start (addrByte .w), .send c.pageSel, .send pg, .stop]

end Sys2Proof.Machine
end

