-- ==== Sys2Proof/Safety.lean ====
section
/-! DEFINITION. What a good state and a run are, in the terms the statements use. -/

namespace Sys2Proof.Machine

/-- The states the block can be in: the configuration is in its domain (R8), the memory is in canonical form and
inside the buffer (R22), the encoder invariant of R86 holds, the phase is one the mode has (R28), the pointer
fits the width it wraps at (R26, R43), and what the build does not have stays at its reset value (R31, R35). -/
structure State.Inv (s : State) : Prop where
  domain : s.cfg.inDomain = true
  canonical : s.buf.wf = true
  withinCap : s.buf.within s.cap = true
  idxBound : s.idx.toNat < s.cap
  cntBound : s.cnt ≤ s.cfg.resetBytes
  gapCount : s.est = .rst → 1 ≤ s.cnt
  phaseNative : s.cfg.mode = .native → s.phase ≠ .page
  phaseCompat : s.cfg.mode = .compat → s.phase ≠ .addrHi
  ptrWidth : s.ptr.toNat < 2 ^ s.cfg.ptrWidth
  pageNative : s.cfg.mode = .native → s.page = 0x00
  curPerGroup : s.cfg.encFetch = .perGroup → s.cur = 0x00

/-- Go on from a next state; a fault or a refusal ends the run. -/
def andThen (r : Result) (k : State → Result) : Result :=
  match r with
  | .next s => k s
  | .fault f => .fault f
  | .refused f => .refused f

/-- `n` steps, stopping at the first fault or refusal. -/
def runSteps : Nat → State → Result
  | 0, s => .next s
  | n + 1, s => andThen (step s) (runSteps n)

/-- Feed event words to the block, ahead of what is already pending, and take one step for each (R130: a run is a
finite prefix of events). For event words only: an address byte takes a second step for the event it raises. -/
def State.feed (s : State) (ws : List Input) : Result :=
  runSteps ws.length (s.setInputs (ws ++ s.inputs))

/-- What an encoder tick depends on and writes: the configuration, the buffer, the cursor and the output stream
(R89). -/
def State.encView (s : State) : Config × Memory × EncState × Half × Nat × Byte × List Byte :=
  (s.cfg, s.buf, s.est, s.idx, s.cnt, s.cur, s.emitted)

/-- What a bus event depends on and writes: the configuration, the buffer, the session, the page and the reply
stream (R24, R25, R31). -/
def State.busView (s : State) : Config × Memory × Half × Phase × Byte × List Byte :=
  (s.cfg, s.buf, s.ptr, s.phase, s.page, s.replies)

/-- The encoder cursor (R37). -/
def State.cursor (s : State) : EncState × Half × Nat × Byte := (s.est, s.idx, s.cnt, s.cur)

/-- How many of the inputs are output ticks (R67, code `0b110`). -/
def tickCount (ws : List Input) : Nat :=
  ws.countP fun w =>
    match w with
    | .wire _ => false
    | .event e => eventCode e == 0b110

/-- R116: every tick among the events `ws` was answered by exactly one emitted byte. The premise under which a
claim about the output stream speaks of the hardware (log 14). -/
def NoUnderrun (ws : List Input) (before after : State) : Prop :=
  after.emitted.length = before.emitted.length + tickCount ws

end Sys2Proof.Machine
end

