-- ==== Sys2Proof/Certificates/Slice0/Obligations.lean ====
section
/-! DEFINITION. The statements for the provers. A docstring names the rule a statement formalises; where a clause
rests on a decision of the spec (D<n> of spec/92_eei_decisions.md) or of the model (log <n>), it says so. The 3-bit
event codes are the spec's decision D2 throughout. -/

open Sys2Proof Sys2Proof.Machine

/-! ### Reset and the invariant -/

/-- The state right after reset, for every configuration (spec/70_reset_and_hazards.md section 1). `est = RST` is the
source's; the other values are the spec's decisions D10, D16, D17 and D22. The machine's own reset state is one of
these, for the build of log 2. -/
def Obligations.ResetStateOfEveryBuild : Prop :=
  (∀ c : Config, ∀ s : State, s = State.resetOf c →
    (∀ i, s.buf.read i = 0x00) ∧ s.ptr = 0x0000 ∧ s.phase = .addr ∧ s.page = 0x00 ∧
    s.est = .rst ∧ s.cnt = c.resetBytes ∧ s.idx = 0 ∧ s.cur = 0x00 ∧
    s.replies = [] ∧ s.emitted = [] ∧ s.cfg = c) ∧
  State.reset = State.resetOf State.reset.cfg

/-- The invariant holds right after reset of every build in the domain, and of the model's own build. -/
def Obligations.ResetMeetsInvariant : Prop :=
  (∀ c : Config, c.inDomain = true → (State.resetOf c).Inv) ∧ State.reset.Inv

/-- Every step keeps the invariant, from every state that has it: the memory stays canonical and inside the buffer,
the encoder invariant of spec/40_serial_encoder.md section 4 holds, the phase stays one the mode has, the pointer
stays inside the width it wraps at. -/
def Obligations.StepKeepsInvariant : Prop :=
  ∀ s t : State, s.Inv → step s = .next t → t.Inv

/-- "every event has an enabled rule" (spec/93_implementation_defined.md section 1): in a state with the invariant
every pending input but the reserved code is handled, in every phase (direction is not tracked: the spec's decision
D22). -/
def Obligations.EveryPendingEventIsHandled : Prop :=
  ∀ (s : State) (w : Input) (rest : List Input), s.Inv → s.inputs = w :: rest →
    (∀ d : Byte, w ≠ .event (eventWord 0b111 d)) → ∃ t, step s = .next t

/-! ### Decoding -/

/-- Decoding the encoding of a well-formed operation, in a context that admits it, gives it back. -/
def Obligations.DecodeOfEncodeIsIdentity : Prop :=
  ∀ (c : Context) (i : Instr), i.wellFormed = true → i.admittedIn c = true → decode c (encode i) = i

/-- Every input decodes to a well-formed operation that the context admits, and encoding that gives the input back,
with the data field cleared where the code ignores it. -/
def Obligations.EncodeOfDecodeIsCanonical : Prop :=
  ∀ (c : Context) (w : Input),
    (decode c w).wellFormed = true ∧ (decode c w).admittedIn c = true ∧ encode (decode c w) = w.canonical

/-- Table of spec/30_encoding.md section 2 (the spec's decision D2): the event of each code but RX's, whatever the
data field, which these codes ignore. -/
def Obligations.EventCodesDecode : Prop :=
  ∀ (c : Context) (d : Byte),
    decode c (.event (eventWord 0b000 d)) = .addrMatchW ∧
    decode c (.event (eventWord 0b001 d)) = .addrMatchR ∧
    decode c (.event (eventWord 0b011 d)) = .txReq ∧
    decode c (.event (eventWord 0b100 d)) = .stop ∧
    decode c (.event (eventWord 0b101 d)) = .nack ∧
    decode c (.event (eventWord 0b110 d)) =
      (match c.est with | .g0 => .encG0 | .g1 => .encG1 | .g2 => .encG2 | .g3 => .encG3 | .rst => .encRst) ∧
    decode c (.event (eventWord 0b111 d)) = .reserved

/-- R70: the role of a received byte is decided by `(MODE, phase)`, and the two impossible pairs are refused. -/
def Obligations.RxRoleByModeAndPhase : Prop :=
  ∀ (e : EncState) (b : Byte) (s : State),
    decode { mode := .native, phase := .addr, est := e } (.event (eventWord 0b010 b)) = .rxAddrLo b ∧
    decode { mode := .native, phase := .addrHi, est := e } (.event (eventWord 0b010 b)) = .rxAddrHi b ∧
    decode { mode := .native, phase := .data, est := e } (.event (eventWord 0b010 b)) = .rxDataN b ∧
    decode { mode := .compat, phase := .addr, est := e } (.event (eventWord 0b010 b)) = .rxAddrC b ∧
    decode { mode := .compat, phase := .page, est := e } (.event (eventWord 0b010 b)) = .rxPage b ∧
    decode { mode := .compat, phase := .data, est := e } (.event (eventWord 0b010 b)) = .rxDataC b ∧
    decode { mode := .native, phase := .page, est := e } (.event (eventWord 0b010 b)) = .rxInvalid b ∧
    decode { mode := .compat, phase := .addrHi, est := e } (.event (eventWord 0b010 b)) = .rxInvalid b ∧
    exec (.rxInvalid b) s = .refused .impossibleRole

/-- Words written out from the spec's encodings (spec/95_test_vectors.md W1 to W7; spec/30_encoding.md section 1)
decode to the operations they stand for. The words 0x2A5 (RX) and 0x600 (BYTE_READY) have a role in a context only: the
model's choice of log 6, the context right after reset of the default build of log 2 (DESIGN CHOICE). -/
def Obligations.SpecWordsDecode : Prop :=
  decodeTableWord 8 0xE8 = some (.wireAddr .w) ∧ decodeTableWord 8 0xE9 = some (.wireAddr .r) ∧
  decodeTableWord 8 0x00 = some (.wireOther 0x00) ∧ decodeTableWord 11 0x000 = some .addrMatchW ∧
  decodeTableWord 11 0x0FF = some .addrMatchW ∧ decodeTableWord 11 0x100 = some .addrMatchR ∧
  decodeTableWord 11 0x2A5 = some (.rxAddrLo 0xA5) ∧ decodeTableWord 11 0x3FF = some .txReq ∧
  decodeTableWord 11 0x400 = some .stop ∧ decodeTableWord 11 0x500 = some .nack ∧
  decodeTableWord 11 0x600 = some .encRst ∧ decodeTableWord 11 0x700 = some .reserved ∧
  decodeTableWord 11 0x7FF = some .reserved

/-! ### The step -/

/-- A step handles the oldest pending input: it runs the decoded operation in the state with that input taken off. -/
def Obligations.StepRunsDecodedInput : Prop :=
  ∀ (s : State) (w : Input) (rest : List Input), s.cfg.inDomain = true → s.inputs = w :: rest →
    step s = exec (decode s.ctx w) { s with inputs := rest }

/-- The model's choice of log 4: with nothing pending, a step changes nothing. -/
def Obligations.StepWithNothingPending : Prop :=
  ∀ s : State, s.cfg.inDomain = true → s.inputs = [] → step s = .next s

/-- A configuration outside the domain is refused (the spec's decision D27). -/
def Obligations.ConfigOutsideDomainRefused : Prop :=
  ∀ s : State, s.cfg.nLeds = 0 ∨ 65535 < 3 * s.cfg.nLeds ∨ s.cfg.resetBytes = 0 →
    step s = .refused .configDomain

/-- R114: no step of any state ends in a fault. -/
def Obligations.NoStepFaults : Prop :=
  ∀ (s : State) (f : Fault), step s ≠ .fault f

/-- The reserved event code is refused, whatever its data field (the spec's decision D2). -/
def Obligations.ReservedEventRefused : Prop :=
  (∀ s : State, exec .reserved s = .refused .reservedEvent) ∧
  ∀ (s : State) (d : Byte) (rest : List Input), s.cfg.inDomain = true →
    s.inputs = .event (eventWord 0b111 d) :: rest → step s = .refused .reservedEvent

/-! ### The bus controller's address bytes -/

/-- The block's own address byte raises the address match of its direction (spec/30_encoding.md section 1; that the
event is raised ahead of what comes later on the wire is log 7), and the next step handles it. -/
def Obligations.WireAddrRaisesAddressMatch : Prop :=
  (∀ s : State, exec (.wireAddr .w) s = .next { s with inputs := .event 0x000 :: s.inputs }) ∧
  (∀ s : State, exec (.wireAddr .r) s = .next { s with inputs := .event 0x100 :: s.inputs }) ∧
  (∀ (s : State) (rest : List Input), s.cfg.inDomain = true → s.inputs = .wire 0xE8 :: rest →
    runSteps 2 s = exec .addrMatchW { s with inputs := rest }) ∧
  (∀ (s : State) (rest : List Input), s.cfg.inDomain = true → s.inputs = .wire 0xE9 :: rest →
    runSteps 2 s = exec .addrMatchR { s with inputs := rest })

/-- Any other address byte raises no event and changes nothing (the spec's decision D19). -/
def Obligations.WireOtherRaisesNothing : Prop :=
  (∀ (b : Byte) (s : State), exec (.wireOther b) s = .next s) ∧
  ∀ (c : Context) (b : Byte), b ≠ 0xE8 → b ≠ 0xE9 → decode c (.wire b) = .wireOther b

/-- The transaction that follows another address does not reach the block: the bus controller derives no event from
it, until the next start (spec/30_encoding.md section 1, D19; log 20). -/
def Obligations.OtherAddressReachesNothing : Prop :=
  ∀ (sel : Option Dir) (b : Byte) (ts : List Token), b ≠ 0xE8 → b ≠ 0xE9 →
    (∀ t ∈ ts, (∀ a, t ≠ .start a) ∧ (∀ k, t ≠ .tick k)) →
    wireEvents sel (.start b :: ts) = []

/-! ### The Register Protocol Slave -/

/-- ADDR_MATCH_W (spec/41_bus_slave.md section 1; the zero is the spec's decision D5, the page's scope D10). -/
def Obligations.AddrMatchWStartsWrite : Prop :=
  ∀ s : State, exec .addrMatchW s = .next
    { s with phase := .addr, ptr := 0x0000,
             page := if s.cfg.mode = .compat ∧ s.cfg.pageScope = .transaction then 0x00 else s.page }

/-- ADDR_MATCH_R (spec/41_bus_slave.md section 1; whether the pointer is cleared is the parameter of D6). -/
def Obligations.AddrMatchRStartsRead : Prop :=
  ∀ s : State, exec .addrMatchR s = .next
    { s with phase := .addr,
             ptr := if s.cfg.ptrOnReadMatch = .clear then 0x0000 else s.ptr,
             page := if s.cfg.mode = .compat ∧ s.cfg.pageScope = .transaction then 0x00 else s.page }

/-- RX_ADDR_LO (spec/41_bus_slave.md section 2; the pointer after the low byte alone is the spec's decision D7). -/
def Obligations.RxAddrLoSetsLowByte : Prop :=
  ∀ (b : Byte) (s : State), exec (.rxAddrLo b) s = .next
    { s with ptr := BitVec.ofNat 16 b.toNat, phase := .addrHi }

/-- R93: a byte received in phase `ADDR_HI` becomes the high byte of the pointer, and data follow. -/
def Obligations.RxAddrHiSetsHighByte : Prop :=
  ∀ (b : Byte) (s : State),
    (s.cfg.mode = .native → s.phase = .addrHi → decode s.ctx (.event (eventWord 0b010 b)) = .rxAddrHi b) ∧
    exec (.rxAddrHi b) s = .next
      { s with ptr := BitVec.ofNat 16 (b.toNat * 256 + s.ptr.toNat % 256), phase := .data }

/-- R46: the register address is sent low byte first. -/
def Obligations.NativeAddressLowByteFirst : Prop :=
  ∀ (lo hi : Byte) (s : State), ∃ t u : State,
    exec (.rxAddrLo lo) s = .next t ∧ exec (.rxAddrHi hi) t = .next u ∧
      u.ptr.toNat = hi.toNat * 256 + lo.toNat ∧ u.phase = .data

/-- RX_DATA_N (spec/41_bus_slave.md section 3): stored at the pointer, which moves on, when in bounds; otherwise
dropped. That the pointer stays where it is out of bounds is the spec's decision D8. -/
def Obligations.RxDataNStoresInBounds : Prop :=
  ∀ (b : Byte) (s : State), exec (.rxDataN b) s =
    if s.ptr.toNat < s.cap then
      .next { s with buf := s.buf.write s.ptr.toNat b, ptr := s.ptr + 1 }
    else .next s

/-- TX_REQ (spec/41_bus_slave.md section 4): the byte at the pointer, which moves on, when in bounds; otherwise zero.
The untranslated read and the pointer kept out of bounds are the spec's decisions D9 and D8. -/
def Obligations.TxReqRepliesByteAtPointer : Prop :=
  ∀ s : State, exec .txReq s =
    if s.ptr.toNat < s.cap then
      .next { s with replies := s.replies ++ [s.buf.read s.ptr.toNat],
                     ptr := BitVec.ofNat 16 ((s.ptr.toNat + 1) % 2 ^ s.cfg.ptrWidth) }
    else .next { s with replies := s.replies ++ [0x00] }

/-- The increment (spec/10_state.md section 3, the spec's decision D4): modulo `2^16` in `NATIVE`, modulo
`2^PTR_BITS_COMPAT` in `COMPAT`; in `NATIVE` the modulus never acts on an in-bounds pointer. -/
def Obligations.PointerIncrementWraps : Prop :=
  ∀ (c : Config) (p : Half),
    (c.mode = .native → (inc c p).toNat = (p.toNat + 1) % 65536) ∧
    (c.mode = .compat → c.ptrBitsCompat = .bits8 → (inc c p).toNat = (p.toNat + 1) % 256) ∧
    (c.mode = .compat → c.ptrBitsCompat = .bits16 → (inc c p).toNat = (p.toNat + 1) % 65536) ∧
    (c.mode = .native → c.inDomain = true → p.toNat < c.cap → (inc c p).toNat = p.toNat + 1)

/-- R96 and R97: event codes `0b100` and `0b101`, a stop and a not-acknowledge, change nothing. -/
def Obligations.StopAndNackChangeNothing : Prop :=
  ∀ (s : State) (d : Byte),
    decode s.ctx (.event (eventWord 0b100 d)) = .stop ∧ exec .stop s = .next s ∧
    decode s.ctx (.event (eventWord 0b101 d)) = .nack ∧ exec .nack s = .next s

/-! ### The Compatibility Remap Shim -/

/-- RX_ADDR_C (spec/42_remap_shim.md section 2, the spec's decision D11). -/
def Obligations.RxAddrCSetsLegacyAddress : Prop :=
  ∀ (b : Byte) (s : State), exec (.rxAddrC b) s = .next
    { s with ptr := BitVec.ofNat 16 b.toNat, phase := if b = s.cfg.pageSel then .page else .data }

/-- RX_PAGE (spec/42_remap_shim.md section 2, the spec's decision D11). -/
def Obligations.RxPageSetsPage : Prop :=
  ∀ (b : Byte) (s : State), exec (.rxPage b) s = .next
    { s with page := b, ptr := BitVec.ofNat 16 ((s.ptr.toNat + 1) % 2 ^ s.cfg.ptrWidth), phase := .data }

/-- R108: channels 0 and 1 of every pixel change places, channel 2 stays. -/
def Obligations.RemapSwapsChannels : Prop :=
  ∀ p : Nat, remap (3 * p) = 3 * p + 1 ∧ remap (3 * p + 1) = 3 * p ∧ remap (3 * p + 2) = 3 * p + 2

/-- RX_DATA_C (spec/42_remap_shim.md section 4; the width of the increment is the spec's decision D4). -/
def Obligations.RxDataCStoresTranslated : Prop :=
  ∀ (b : Byte) (s : State), exec (.rxDataC b) s = .next
    { s with
      buf :=
        if s.page = 0x00 ∧ s.cfg.colorBase.toNat ≤ s.ptr.toNat ∧
            remap (s.ptr.toNat - s.cfg.colorBase.toNat) < s.cap then
          s.buf.write (remap (s.ptr.toNat - s.cfg.colorBase.toNat)) b
        else s.buf
      ptr := BitVec.ofNat 16 ((s.ptr.toNat + 1) % 2 ^ s.cfg.ptrWidth) }

/-- Spec/42_remap_shim.md section 5: the remap permutes each pixel, and a compatible data byte is stored exactly when
the page is 0 and the legacy address lies in the `CAP` bytes from `COLOR_BASE`. -/
def Obligations.RemapPermutesPixels : Prop :=
  (∀ r : Nat, remap r / 3 = r / 3 ∧ remap (remap r) = r) ∧
  (∀ r n : Nat, remap r < 3 * n ↔ r < 3 * n) ∧
  ∀ s : State, (∃ a, compatTarget s = some a) ↔
    (s.page = 0x00 ∧ s.cfg.colorBase.toNat ≤ s.ptr.toNat ∧
      s.ptr.toNat < s.cfg.colorBase.toNat + s.cap)

/-- Spec/42_remap_shim.md section 5: the offsets that compatible data bytes at legacy addresses up to 0xFF are stored
to are exactly `remap r` for `r` below both `CAP` and `256 - COLOR_BASE`. -/
def Obligations.CompatReachableOffsets : Prop :=
  ∀ (c : Config) (t : Nat),
    (∃ s : State, s.cfg = c ∧ s.page = 0x00 ∧ s.ptr.toNat < 256 ∧ compatTarget s = some t) ↔
      ∃ r, r < min c.cap (256 - c.colorBase.toNat) ∧ t = remap r

/-! ### The Serial Bit Encoder -/

/-- R81: the `G0` tick emits group 0, and latches the byte with `ENC_FETCH = LATCHED`. -/
def Obligations.EncG0EmitsGroup0 : Prop :=
  ∀ s : State,
    (∀ d : Byte, s.est = .g0 → decode s.ctx (.event (eventWord 0b110 d)) = .encG0) ∧
    (s.idx.toNat < s.cap → exec .encG0 s = .next
      { s with
        emitted := s.emitted ++ [s.cfg.lut.get ((s.buf.read s.idx.toNat).extractLsb' 6 2)]
        cur := if s.cfg.encFetch = .latched then s.buf.read s.idx.toNat else s.cur
        est := .g1 })

/-- R82 and R83: the `G1` and `G2` ticks emit groups 1 and 2 of the byte read afresh, or of the latched one. -/
def Obligations.EncG1AndG2EmitTheirGroups : Prop :=
  ∀ (s : State) (v : Byte), s.idx.toNat < s.cap →
    v = (if s.cfg.encFetch = .perGroup then s.buf.read s.idx.toNat else s.cur) →
    (∀ d : Byte, s.est = .g1 → decode s.ctx (.event (eventWord 0b110 d)) = .encG1) ∧
    (∀ d : Byte, s.est = .g2 → decode s.ctx (.event (eventWord 0b110 d)) = .encG2) ∧
    exec .encG1 s = .next { s with emitted := s.emitted ++ [s.cfg.lut.get (v.extractLsb' 4 2)], est := .g2 } ∧
    exec .encG2 s = .next { s with emitted := s.emitted ++ [s.cfg.lut.get (v.extractLsb' 2 2)], est := .g3 }

/-- R84: the `G3` tick emits group 3 and goes on to the next byte, or to the gap after the last one. -/
def Obligations.EncG3EmitsAndAdvances : Prop :=
  ∀ (s : State) (v : Byte), s.idx.toNat < s.cap →
    v = (if s.cfg.encFetch = .perGroup then s.buf.read s.idx.toNat else s.cur) →
    (∀ d : Byte, s.est = .g3 → decode s.ctx (.event (eventWord 0b110 d)) = .encG3) ∧
    exec .encG3 s = .next
      (if s.idx.toNat + 1 < s.cap then
        { s with emitted := s.emitted ++ [s.cfg.lut.get (v.extractLsb' 0 2)], idx := s.idx + 1, est := .g0 }
      else
        { s with emitted := s.emitted ++ [s.cfg.lut.get (v.extractLsb' 0 2)],
                 idx := 0, cnt := s.cfg.resetBytes, est := .rst })

/-- ENC_RST (spec/40_serial_encoder.md section 3; the counter's reading is the spec's decision D16). -/
def Obligations.EncRstEmitsZero : Prop :=
  ∀ s : State, s.idx.toNat < s.cap → 1 ≤ s.cnt → s.cnt ≤ s.cfg.resetBytes →
    exec .encRst s = .next
      (if s.cnt = 1 then { s with emitted := s.emitted ++ [0x00], cnt := 0, idx := 0, est := .g0 }
      else { s with emitted := s.emitted ++ [0x00], cnt := s.cnt - 1 })

/-- Spec/40_serial_encoder.md section 4: a tick in a state that breaks the encoder invariant is refused. -/
def Obligations.BrokenCursorRefused : Prop :=
  ∀ s : State,
    (s.cap ≤ s.idx.toNat → ∀ i : Instr, i.agent = some .enc → exec i s = .refused .encoderInvariant) ∧
    (s.cnt = 0 ∨ s.cfg.resetBytes < s.cnt → exec .encRst s = .refused .encoderInvariant)

/-- R79: a source byte is consumed as its four 2-bit groups, most significant pair first, each through the table:
the four ticks from `G0` emit exactly those bytes, whatever the fetch mode. -/
def Obligations.FourTicksEmitFourGroups : Prop :=
  ∀ (s : State) (v : Byte), s.cfg.inDomain = true → s.idx.toNat < s.cap → s.est = .g0 →
    v = s.buf.read s.idx.toNat → ∃ t, s.feed (ticks 4) = .next t ∧
      t.emitted = s.emitted ++
        [s.cfg.lut.get (BitVec.ofNat 2 (v.toNat / 64)), s.cfg.lut.get (BitVec.ofNat 2 (v.toNat / 16)),
         s.cfg.lut.get (BitVec.ofNat 2 (v.toNat / 4)), s.cfg.lut.get (BitVec.ofNat 2 v.toNat)]

/-- Spec/40_serial_encoder.md section 4: from the start of a pass, with no bus event in between, the encoder emits
the `4 * CAP` bytes of the buffer and then `RESET_BYTES` zero bytes, and is at the start of a pass again (the count of the
gap is the spec's decision D16). -/
def Obligations.ScanPeriodEmitsBufferThenGap : Prop :=
  ∀ s : State, s.Inv → s.est = .g0 → s.idx = 0 →
    ∃ t, s.feed (ticks (4 * s.cap + s.cfg.resetBytes)) = .next t ∧
      t.emitted = s.emitted ++ passBytes s ++ List.replicate s.cfg.resetBytes 0x00 ∧
      (passBytes s).length = 4 * s.cap ∧
      t.est = .g0 ∧ t.idx = 0 ∧ t.buf = s.buf ∧ t.ptr = s.ptr ∧ t.phase = s.phase ∧ t.page = s.page ∧
      t.replies = s.replies

/-- Spec/40_serial_encoder.md section 4: after reset the first `RESET_BYTES` ticks emit `0x00`, and the first pass
begins on the next tick. That `cnt = RESET_BYTES` and `idx = 0` at reset, and the reading of the counter, are the
spec's decision D16 (log 17, DESIGN CHOICE). -/
def Obligations.FirstTicksEmitTheGap : Prop :=
  ∀ c : Config, c.inDomain = true →
    ∃ t, (State.resetOf c).feed (ticks c.resetBytes) = .next t ∧
      t.emitted = List.replicate c.resetBytes 0x00 ∧ t.est = .g0 ∧ t.idx = 0

/-- With `ENC_FETCH = LATCHED` the ticks after `G0` do not see the buffer: replacing it changes nothing they emit
(spec/40_serial_encoder.md section 1, D15). -/
def Obligations.LatchedTicksIgnoreBuffer : Prop :=
  ∀ (i : Instr) (s : State) (m : Memory), i = .encG1 ∨ i = .encG2 ∨ i = .encG3 →
    s.cfg.encFetch = .latched → s.idx.toNat < s.cap →
    ∃ t, exec i s = .next t ∧ exec i { s with buf := m } = .next { t with buf := m }

/-! ### Frames -/

/-- Bus events that store nothing: every buffer byte, the cursor, the output stream and the configuration stay; the
reply stream changes for TX_REQ only, the page for the page value and the address matches only, the phase for neither
TX_REQ nor STOP nor NACK. -/
def Obligations.NonStoringBusEventsFrame : Prop :=
  ∀ (i : Instr) (s t : State),
    (i = .addrMatchW ∨ i = .addrMatchR ∨ i = .txReq ∨ i = .stop ∨ i = .nack ∨
      ∃ b, i = .rxAddrLo b ∨ i = .rxAddrHi b ∨ i = .rxAddrC b ∨ i = .rxPage b) →
    exec i s = .next t →
    (∀ a, t.buf.read a = s.buf.read a) ∧ t.cfg = s.cfg ∧ t.inputs = s.inputs ∧ t.emitted = s.emitted ∧
    t.est = s.est ∧ t.idx = s.idx ∧ t.cnt = s.cnt ∧ t.cur = s.cur ∧
    (i ≠ .txReq → t.replies = s.replies) ∧
    (i ≠ .addrMatchW → i ≠ .addrMatchR → (∀ b, i ≠ .rxPage b) → t.page = s.page) ∧
    (i = .txReq ∨ i = .stop ∨ i = .nack → t.phase = s.phase) ∧
    (i = .stop ∨ i = .nack → t.ptr = s.ptr)

/-- Data bytes: every buffer byte but the one at the offset stored to stays, all of them when none is stored; the
pointer alone may also change. -/
def Obligations.DataBytesFrame : Prop :=
  ∀ (b : Byte) (i : Instr) (s t : State), i = .rxDataN b ∨ i = .rxDataC b → exec i s = .next t →
    (∀ a, storeTarget i s = some a → t.buf.read a = b ∧ ∀ a', a' ≠ a → t.buf.read a' = s.buf.read a') ∧
    (storeTarget i s = none → ∀ a, t.buf.read a = s.buf.read a) ∧
    t.cfg = s.cfg ∧ t.inputs = s.inputs ∧ t.emitted = s.emitted ∧ t.replies = s.replies ∧
    t.phase = s.phase ∧ t.page = s.page ∧
    t.est = s.est ∧ t.idx = s.idx ∧ t.cnt = s.cnt ∧ t.cur = s.cur

/-- Output ticks: every buffer byte, the session, the page and the reply stream stay; the latch changes for `G0` with
`LATCHED` only, the index and the countdown for `G3` and the gap only. -/
def Obligations.EncoderTicksFrame : Prop :=
  ∀ (i : Instr) (s t : State), i.agent = some .enc → exec i s = .next t →
    (∀ a, t.buf.read a = s.buf.read a) ∧ t.cfg = s.cfg ∧ t.inputs = s.inputs ∧ t.replies = s.replies ∧
    t.ptr = s.ptr ∧ t.phase = s.phase ∧ t.page = s.page ∧
    (i ≠ .encG0 ∨ s.cfg.encFetch = .perGroup → t.cur = s.cur) ∧
    (i = .encG0 ∨ i = .encG1 ∨ i = .encG2 → t.idx = s.idx ∧ t.cnt = s.cnt)

/-! ### Whole-machine rules -/

/-- R40: each byte request is answered by exactly one reply and each tick by exactly one emitted byte (a tick in the
states the block can be in, those with the invariant); no other event produces output on either port. -/
def Obligations.OneAnswerPerRequest : Prop :=
  (∀ s : State, ∃ t b, exec .txReq s = .next t ∧ t.replies = s.replies ++ [b] ∧ t.emitted = s.emitted) ∧
  (∀ (i : Instr) (s : State), s.Inv → i.agent = some .enc → i.admittedIn s.ctx = true →
    ∃ t b, exec i s = .next t ∧ t.emitted = s.emitted ++ [b] ∧ t.replies = s.replies) ∧
  ∀ (i : Instr) (s t : State), exec i s = .next t →
    (i = .txReq → ∃ b, t.replies = s.replies ++ [b]) ∧ (i ≠ .txReq → t.replies = s.replies) ∧
    (i.agent = some .enc → ∃ b, t.emitted = s.emitted ++ [b]) ∧
    (i.agent ≠ some .enc → t.emitted = s.emitted)

/-- Who writes what (spec/10_state.md sections 2 to 4): the buffer by data bytes only; the pointer by address matches,
address bytes, the page value, data bytes and byte requests only; the phase by address matches and by received bytes
of the address phase only; the page by the page value, or by an address match of a `COMPAT` build with
`PAGE_SCOPE = TRANSACTION`. -/
def Obligations.WritersOfBusState : Prop :=
  ∀ (i : Instr) (s t : State), exec i s = .next t →
    (t.buf ≠ s.buf → ∃ b, i = .rxDataN b ∨ i = .rxDataC b) ∧
    (t.ptr ≠ s.ptr → i = .addrMatchW ∨ i = .addrMatchR ∨ i = .txReq ∨
      ∃ b, i = .rxAddrLo b ∨ i = .rxAddrHi b ∨ i = .rxAddrC b ∨ i = .rxPage b ∨
        i = .rxDataN b ∨ i = .rxDataC b) ∧
    (t.phase ≠ s.phase → i = .addrMatchW ∨ i = .addrMatchR ∨
      ∃ b, i = .rxAddrLo b ∨ i = .rxAddrHi b ∨ i = .rxAddrC b ∨ i = .rxPage b) ∧
    (t.page ≠ s.page → (∃ b, i = .rxPage b) ∨
      ((i = .addrMatchW ∨ i = .addrMatchR) ∧ s.cfg.mode = .compat ∧ s.cfg.pageScope = .transaction))

/-- R38: no event writes the table, nor anything else of the configuration, and reset takes it as it is. -/
def Obligations.ConfigurationNeverWritten : Prop :=
  (∀ s t : State, step s = .next t → t.cfg = s.cfg ∧ t.cfg.lut = s.cfg.lut) ∧
  ∀ c : Config, (State.resetOf c).cfg.lut = c.lut

/-- R37: no bus event writes the encoder cursor, and none reads it: two states that agree on what the bus side holds
have the same outcome there, whatever their cursors. -/
def Obligations.BusEventsObliviousToCursor : Prop :=
  ∀ (i : Instr) (s t : State), i.agent = some .bus → exec i s = .next t →
    t.cursor = s.cursor ∧
    ∀ s' : State, s'.busView = s.busView → ∃ t', exec i s' = .next t' ∧ t'.busView = t.busView

/-- Spec/40_serial_encoder.md section 4: whether a tick is answered and what it emits depend on nothing of the bus
side but the values of the buffer. -/
def Obligations.EncoderObliviousToBus : Prop :=
  ∀ (i : Instr) (s t s' : State), i.agent = some .enc → exec i s = .next t → s'.encView = s.encView →
    ∃ t', exec i s' = .next t' ∧ t'.encView = t.encView

/-- Spec/60_exceptions.md section 2: a bus event and a tick may be taken in either order with the same result, unless
the bus event stores to the very byte the tick is about. An event is one atomic step (log 15, DEDUCED), and that the
order of the two is free is the spec's decision D26. -/
def Obligations.BusEventAndTickCommute : Prop :=
  ∀ (i j : Instr) (s s₂ : State), i.agent = some .bus → j.agent = some .enc →
    storeTarget i s ≠ some s.idx.toNat →
    ((∃ s₁, exec i s = .next s₁ ∧ exec j s₁ = .next s₂) ↔ ∃ s₁, exec j s = .next s₁ ∧ exec i s₁ = .next s₂)

/-- Spec/20_memory.md section 7: a stored byte is seen by the next read of it, by a tick and by a byte request (that a
compatible byte request reads untranslated is the spec's decision D9; atomic steps, log 15). -/
def Obligations.StoredByteIsSeenNext : Prop :=
  ∀ (b : Byte) (i : Instr) (s : State) (a : Nat), i = .rxDataN b ∨ i = .rxDataC b → storeTarget i s = some a →
    ∃ t, exec i s = .next t ∧ t.buf.read a = b ∧
      (s.idx.toNat = a → ∃ u, exec .encG0 t = .next u ∧
        u.emitted = s.emitted ++ [s.cfg.lut.get (BitVec.ofNat 2 (b.toNat / 64))]) ∧
      ∀ p : Half, p.toNat = a → ∃ u, exec .txReq { t with ptr := p } = .next u ∧ u.replies = s.replies ++ [b]

/-- Every tick of a run of event words was answered by exactly one byte: the premise `NoUnderrun` of
spec/60_exceptions.md section 1 holds of every run of the model (log 14). -/
def Obligations.NoUnderrunByConstruction : Prop :=
  ∀ (s t : State) (ws : List Input), (∀ w ∈ ws, ∃ e, w = .event e) → s.feed ws = .next t →
    NoUnderrun ws s t

/-! ### Whole transactions -/

/-- Spec/41_bus_slave.md section 7: native data bytes out of bounds leave everything as it is, and byte requests out of
bounds each return `0x00` and leave the pointer, in either mode. That the pointer stays is the spec's decision D8 (log
21, DESIGN CHOICE). -/
def Obligations.OutOfBoundsIsInert : Prop :=
  (∀ (s : State) (bs : List Byte), s.cfg.inDomain = true → s.cfg.mode = .native → s.phase = .data →
    s.cap ≤ s.ptr.toNat → s.feed (bs.map rxEvent) = .next s) ∧
  (∀ (s : State) (n : Nat), s.cfg.inDomain = true → s.cap ≤ s.ptr.toNat →
    s.feed (List.replicate n txReqEvent) = .next { s with replies := s.replies ++ List.replicate n 0x00 })

/-- Spec/41_bus_slave.md section 1 and spec/70_reset_and_hazards.md section 3: with `PTR_ON_READ_MATCH = CLEAR` a read
transaction of `n` bytes returns the buffer from offset 0, then zeros past its end; with a pointer that does not wrap
inside the buffer. The cleared pointer is the spec's decision D6, the pointer that stays at the end of the buffer D8,
the untranslated read of a compatible build D9 (log 21, DESIGN CHOICE); the events of the transaction are log 20. -/
def Obligations.ReadTransactionStartsAtZero : Prop :=
  ∀ (s : State) (n : Nat), s.Inv → s.cfg.ptrOnReadMatch = .clear → s.cap < 2 ^ s.cfg.ptrWidth → 1 ≤ n →
    ∃ t, s.feed (eventsOf (rdFrom n)) = .next t ∧
      t.replies = s.replies ++ (List.range n).map (fun i => if i < s.cap then s.buf.read i else 0x00) ∧
      t.buf = s.buf ∧ t.phase = .addr ∧ t.ptr.toNat = min n s.cap

/-- Spec/41_bus_slave.md section 7: writing any pattern of at most `CAP` bytes at native address 0 and reading as many
back from address 0 returns it, with a read from 0 under `CLEAR` and with a set pointer under `KEEP` (D6). The events
of the transactions are log 20. -/
def Obligations.NativeRoundTrip : Prop :=
  ∀ (s : State) (ds : List Byte), s.Inv → s.cfg.mode = .native → 1 ≤ ds.length → ds.length ≤ s.cap →
    (s.cfg.ptrOnReadMatch = .clear →
      ∃ t, s.feed (eventsOf (wr16 0 ds ++ rdFrom ds.length)) = .next t ∧ t.replies = s.replies ++ ds) ∧
    (s.cfg.ptrOnReadMatch = .keep →
      ∃ t, s.feed (eventsOf (wr16 0 ds ++ rd16 0 ds.length)) = .next t ∧ t.replies = s.replies ++ ds)

/-- Spec/42_remap_shim.md section 5: with page 0, three bytes written from `COLOR_BASE` land in the first pixel with
channels 0 and 1 exchanged. `COLOR_BASE` is not the page-select register, and the pointer does not wrap inside the
pixel (the width it wraps at is the spec's decision D4). The events of the transaction are log 20. -/
def Obligations.CompatPixelWrite : Prop :=
  ∀ (s : State) (b0 b1 b2 : Byte), s.Inv → s.cfg.mode = .compat → s.page = 0x00 →
    s.cfg.colorBase ≠ s.cfg.pageSel → s.cfg.colorBase.toNat + 2 < 2 ^ s.cfg.ptrWidth →
    ∃ t, s.feed (eventsOf (wr8 s.cfg.colorBase [b0, b1, b2])) = .next t ∧
      t.buf.read 0 = b1 ∧ t.buf.read 1 = b0 ∧ t.buf.read 2 = b2 ∧
      ∀ a, 3 ≤ a → t.buf.read a = s.buf.read a

/-- Spec/42_remap_shim.md section 5: under a non-zero page every data byte leaves the buffer unchanged, in the same
transaction and, with `PAGE_SCOPE = PERSISTENT` (D10), in a later one to any address but the page-select register. The
address phase is the spec's decision D11, the events of the transactions log 20. -/
def Obligations.NonZeroPageClosesPixels : Prop :=
  (∀ (s : State) (bs : List Byte), s.Inv → s.cfg.mode = .compat → s.phase = .data → s.page ≠ 0x00 →
    ∃ t, s.feed (bs.map rxEvent) = .next t ∧ t.buf = s.buf ∧ t.page = s.page) ∧
  (∀ (s : State) (pg a : Byte) (bs : List Byte), s.Inv → s.cfg.mode = .compat →
    s.cfg.pageScope = .persistent → pg ≠ 0x00 → a ≠ s.cfg.pageSel →
    ∃ t, s.feed (eventsOf (pagesel s.cfg pg ++ wr8 a bs)) = .next t ∧ t.buf = s.buf ∧ t.page = pg)

/-! ### The output line -/

/-- Spec/30_encoding.md section 4 (the spec's decision D14): a byte is shifted out most significant bit first, and a
gap of zero bytes holds the line low for eight bit times each. -/
def Obligations.LineShiftsMostSignificantFirst : Prop :=
  (∀ (b : Byte) (k : Nat), k < 8 → (lineBits b)[k]? = some (b.getLsbD (7 - k))) ∧
  (∀ b : Byte, (lineBits b).length = 8) ∧
  ∀ c : Config, lineOf (gapBytes c) = List.replicate (8 * c.resetBytes) false

/-- Spec/30_encoding.md section 4 (the spec's decision D13): the default table has the structure of two 4-bit symbols,
the high nibble for the more significant bit, with `0b1000` for 0 and `0b1110` for 1; and a table that passes the
structure check has it for two symbols of its own, each starting high. The whole check asks also for the high shares,
about 1/3 for a 0 and about 2/3 for a 1: with the tolerance of log 13 (DESIGN CHOICE), one and three of the four bit
times. -/
def Obligations.TableIsTwoSymbols : Prop :=
  (∀ g : BitVec 2, Lut.default.get g =
    (if g.getLsbD 1 then 0b1110#4 else 0b1000#4) ++ (if g.getLsbD 0 then 0b1110#4 else 0b1000#4)) ∧
  (∀ l : Lut, l.structured = true → ∃ sym0 sym1 : BitVec 4,
    sym0.getLsbD 3 = true ∧ sym1.getLsbD 3 = true ∧
    ∀ g : BitVec 2, l.get g = (if g.getLsbD 1 then sym1 else sym0) ++ (if g.getLsbD 0 then sym1 else sym0)) ∧
  lutEncodesBits Lut.default = true ∧
  ∀ l : Lut, lutEncodesBits l = true ↔ ∃ sym0 sym1 : BitVec 4,
    sym0.getLsbD 3 = true ∧ sym1.getLsbD 3 = true ∧ highBits sym0 = 1 ∧ highBits sym1 = 3 ∧
    ∀ g : BitVec 2, l.get g = (if g.getLsbD 1 then sym1 else sym0) ++ (if g.getLsbD 0 then sym1 else sym0)

/-- Spec/70_reset_and_hazards.md section 4: in bit times, a pass takes `32 * CAP`, a gap `8 * RESET_BYTES` and a scan
period their sum, counted on the line; with the default symbols a 0 is high for one bit time and a 1 for three. That
bytes follow each other with no gap, and that a 1 is high, is the spec's decision D14; the default symbols are its
decision D13 (PRESUMED, log 2). -/
def Obligations.ScanPeriodInBitTimes : Prop :=
  (∀ s : State, (lineOf (passBytes s)).length = passBits s.cfg ∧
    (lineOf (gapBytes s.cfg)).length = gapBits s.cfg ∧
    (lineOf (passBytes s ++ gapBytes s.cfg)).length = scanBits s.cfg ∧
    passBits s.cfg = 32 * s.cap ∧ gapBits s.cfg = 8 * s.cfg.resetBytes ∧
    scanBits s.cfg = passBits s.cfg + gapBits s.cfg) ∧
  highBits 0b1000#4 = 1 ∧ highBits 0b1110#4 = 3
end

