-- ==== Sys2Proof/Laws/Decode.lean ====
section
/-! SUPPORT. The fields of an event word. -/

namespace Sys2Proof

/-- The bits of an event word: data below, code above. -/
theorem eventWord_bit (code : BitVec 3) (d : Byte) (i : Nat) :
    (eventWord code d).getLsbD i = if i < 8 then d.getLsbD i else code.getLsbD (i - 8) :=
  BitVec.getLsbD_append

@[simp] theorem eventCode_eventWord (code : BitVec 3) (d : Byte) : eventCode (eventWord code d) = code := by
  apply BitVec.eq_of_getLsbD_eq
  intro i hi
  rw [eventCode, BitVec.getLsbD_extractLsb', eventWord_bit]
  simp [hi]

@[simp] theorem eventData_eventWord (code : BitVec 3) (d : Byte) : eventData (eventWord code d) = d := by
  apply BitVec.eq_of_getLsbD_eq
  intro i hi
  rw [eventData, BitVec.getLsbD_extractLsb', eventWord_bit]
  simp [hi]

/-- An event word is its two fields. -/
theorem eventWord_fields (e : EventWord) : eventWord (eventCode e) (eventData e) = e := by
  apply BitVec.eq_of_getLsbD_eq
  intro i hi
  rw [eventWord_bit, eventCode, eventData, BitVec.getLsbD_extractLsb', BitVec.getLsbD_extractLsb']
  by_cases h : i < 8
  · simp [h]
  · simp [h, show i - 8 < 3 by omega, show 8 + (i - 8) = i by omega]

/-- The code's bits, alone. -/
theorem eventWord_masked (code : BitVec 3) (d : Byte) : eventWord code d &&& 0x700#11 = eventWord code 0#8 := by
  apply BitVec.eq_of_getLsbD_eq
  intro i hi
  have h7 : ∀ i : Nat, i < 11 → (0x700#11).getLsbD i = decide (8 ≤ i) := by decide
  rw [BitVec.getLsbD_and, h7 i hi, eventWord_bit, eventWord_bit]
  by_cases h8 : i < 8
  · simp [h8, show ¬ 8 ≤ i by omega]
  · simp [h8, show 8 ≤ i by omega]

/-- The role of a received byte is one the context admits. -/
theorem decodeRx_admitted (c : Context) (b : Byte) : (decodeRx c.mode c.phase b).admittedIn c = true := by
  obtain ⟨m, p, e⟩ := c
  cases m <;> cases p <;> rfl

/-- The role of a tick is one the context admits. -/
theorem decodeTick_admitted (c : Context) : (decodeTick c.est).admittedIn c = true := by
  obtain ⟨m, p, e⟩ := c
  cases e <;> rfl

end Sys2Proof
end

