-- ==== Sys2Proof/Laws/Memory.lean ====
section
/-! SUPPORT. The laws of the Frame Buffer as a list: read after write, writes leave other offsets alone, and every
operation keeps the canonical form. -/

namespace Sys2Proof.Machine

@[simp] theorem Memory.read_nil (i : Nat) : Memory.read [] i = Memory.unlisted := rfl

theorem Memory.read_cons (a : Nat) (v : Byte) (m : Memory) (i : Nat) :
    Memory.read ((a, v) :: m) i = if a = i then v else Memory.read m i := rfl

@[simp] theorem Memory.drop_nil (i : Nat) : Memory.drop [] i = [] := rfl

theorem Memory.drop_cons (a : Nat) (w : Byte) (m : Memory) (i : Nat) :
    Memory.drop ((a, w) :: m) i = if a = i then Memory.drop m i else (a, w) :: Memory.drop m i := by
  by_cases h : a = i <;> simp [Memory.drop, h]

theorem Memory.read_drop_same (m : Memory) (i : Nat) : (Memory.drop m i).read i = Memory.unlisted := by
  induction m with
  | nil => rfl
  | cons c m ih =>
    obtain ⟨a, w⟩ := c
    by_cases h : a = i <;> simp [Memory.drop_cons, Memory.read_cons, h, ih]

theorem Memory.read_drop_other (m : Memory) {i j : Nat} (h : j ≠ i) : (Memory.drop m i).read j = m.read j := by
  induction m with
  | nil => rfl
  | cons c m ih =>
    obtain ⟨a, w⟩ := c
    by_cases ha : a = i
    · subst ha
      simp [Memory.drop_cons, Memory.read_cons, ih, Ne.symm h]
    · simp [Memory.drop_cons, Memory.read_cons, ha, ih]

theorem Memory.read_place_other (m : Memory) {i j : Nat} (v : Byte) (h : j ≠ i) :
    (Memory.place m i v).read j = m.read j := by
  induction m with
  | nil => simp [Memory.place, Memory.read_cons, Ne.symm h]
  | cons c m ih =>
    obtain ⟨a, w⟩ := c
    by_cases ha : i < a
    · simp [Memory.place, ha, Memory.read_cons, Ne.symm h]
    · simp [Memory.place, ha, Memory.read_cons, ih]

/-- Placing at an offset that is not listed makes it read the placed value. -/
theorem Memory.read_place_drop (m : Memory) (i : Nat) (v : Byte) :
    (Memory.place (Memory.drop m i) i v).read i = v := by
  induction m with
  | nil => simp [Memory.place, Memory.read_cons]
  | cons c m ih =>
    obtain ⟨a, w⟩ := c
    by_cases ha : a = i
    · simp [Memory.drop_cons, ha, ih]
    · by_cases hlt : i < a
      · simp [Memory.drop_cons, ha, Memory.place, hlt, Memory.read_cons]
      · simp [Memory.drop_cons, ha, Memory.place, hlt, Memory.read_cons, ih]

/-- A read after a write to the same offset gives the value written. -/
@[simp] theorem Memory.read_write_same (m : Memory) (i : Nat) (v : Byte) : (Memory.write m i v).read i = v := by
  unfold Memory.write
  split
  · next h => rw [Memory.read_drop_same, h]
  · exact Memory.read_place_drop m i v

/-- A write leaves every other offset alone. -/
theorem Memory.read_write_other (m : Memory) {i j : Nat} (v : Byte) (h : j ≠ i) :
    (Memory.write m i v).read j = m.read j := by
  unfold Memory.write
  split
  · exact Memory.read_drop_other m h
  · rw [Memory.read_place_other _ v h, Memory.read_drop_other m h]

/-- Both laws at once. -/
theorem Memory.read_write (m : Memory) (i j : Nat) (v : Byte) :
    (Memory.write m i v).read j = if j = i then v else m.read j := by
  split
  · next h => rw [h, Memory.read_write_same]
  · next h => exact Memory.read_write_other m v h

theorem Memory.risingFrom_mono {m : Memory} {lo lo' : Nat} (h : lo' ≤ lo) (hm : Memory.risingFrom lo m = true) :
    Memory.risingFrom lo' m = true := by
  cases m with
  | nil => rfl
  | cons c m =>
    obtain ⟨a, v⟩ := c
    simp only [Memory.risingFrom, Bool.and_eq_true, decide_eq_true_eq] at hm ⊢
    exact ⟨⟨by omega, hm.1.2⟩, hm.2⟩

theorem Memory.risingFrom_drop {m : Memory} {lo : Nat} (i : Nat) (hm : Memory.risingFrom lo m = true) :
    Memory.risingFrom lo (Memory.drop m i) = true := by
  induction m generalizing lo with
  | nil => rfl
  | cons c m ih =>
    obtain ⟨a, v⟩ := c
    simp only [Memory.risingFrom, Bool.and_eq_true, decide_eq_true_eq] at hm
    have hd := ih hm.2
    rw [Memory.drop_cons]
    split
    · exact Memory.risingFrom_mono (by omega) hd
    · simp only [Memory.risingFrom, Bool.and_eq_true, decide_eq_true_eq]
      exact ⟨hm.1, hd⟩

theorem Memory.risingFrom_place {m : Memory} {lo i : Nat} {v : Byte} (hlo : lo ≤ i) (hv : v ≠ Memory.unlisted)
    (hm : Memory.risingFrom lo (Memory.drop m i) = true) :
    Memory.risingFrom lo (Memory.place (Memory.drop m i) i v) = true := by
  induction m generalizing lo with
  | nil => simp [Memory.place, Memory.risingFrom, hlo, hv]
  | cons c m ih =>
    obtain ⟨a, w⟩ := c
    rw [Memory.drop_cons] at hm ⊢
    split at hm
    · next ha => simpa [ha] using ih hlo hm
    · next ha =>
      simp only [ha, if_false, Memory.place]
      simp only [Memory.risingFrom, Bool.and_eq_true, decide_eq_true_eq] at hm
      split
      · next hlt =>
        simp only [Memory.risingFrom, Bool.and_eq_true, decide_eq_true_eq]
        exact ⟨⟨hlo, by simpa using hv⟩, ⟨by omega, hm.1.2⟩, hm.2⟩
      · next hlt =>
        simp only [Memory.risingFrom, Bool.and_eq_true, decide_eq_true_eq]
        exact ⟨hm.1, ih (by omega) hm.2⟩

/-- Writing keeps the canonical form. -/
theorem Memory.wf_write {m : Memory} (i : Nat) (v : Byte) (hm : m.wf = true) : (Memory.write m i v).wf = true := by
  have hd : Memory.risingFrom 0 (Memory.drop m i) = true := Memory.risingFrom_drop i hm
  unfold Memory.write
  split
  · exact hd
  · next hv => exact Memory.risingFrom_place (Nat.zero_le i) hv hd

theorem Memory.within_cons (n a : Nat) (v : Byte) (m : Memory) :
    Memory.within n ((a, v) :: m) = (decide (a < n) && Memory.within n m) := rfl

theorem Memory.within_drop {n : Nat} {m : Memory} (i : Nat) (hm : m.within n = true) :
    (Memory.drop m i).within n = true := by
  induction m with
  | nil => rfl
  | cons c m ih =>
    obtain ⟨a, v⟩ := c
    simp only [Memory.within_cons, Bool.and_eq_true] at hm
    rw [Memory.drop_cons]
    split
    · exact ih hm.2
    · simp only [Memory.within_cons, Bool.and_eq_true]
      exact ⟨hm.1, ih hm.2⟩

theorem Memory.within_place {n i : Nat} {m : Memory} (v : Byte) (hi : i < n) (hm : m.within n = true) :
    (Memory.place m i v).within n = true := by
  induction m with
  | nil => simp [Memory.place, Memory.within, hi]
  | cons c m ih =>
    obtain ⟨a, w⟩ := c
    simp only [Memory.within_cons, Bool.and_eq_true] at hm
    rw [Memory.place]
    split
    · simp only [Memory.within_cons, Bool.and_eq_true, decide_eq_true_eq]
      exact ⟨hi, by simpa using hm.1, hm.2⟩
    · simp only [Memory.within_cons, Bool.and_eq_true]
      exact ⟨hm.1, ih hm.2⟩

/-- Writing inside the buffer keeps every listed offset inside it. -/
theorem Memory.within_write {n i : Nat} {m : Memory} (v : Byte) (hi : i < n) (hm : m.within n = true) :
    (Memory.write m i v).within n = true := by
  unfold Memory.write
  split
  · exact Memory.within_drop i hm
  · exact Memory.within_place v hi (Memory.within_drop i hm)

/-- The memory of the reset state is in canonical form. -/
theorem Memory.wf_reset (c : Config) : (State.resetOf c).buf.wf = true := rfl

theorem Memory.wf_reset_default : State.reset.buf.wf = true := rfl

end Sys2Proof.Machine
end

