-- ==== Sys2Proof/Laws/State.lean ====
section
/-! SUPPORT. One lemma per field per named update of the state. -/

namespace Sys2Proof.Machine

@[simp] theorem State.setBuf_cfg (s : State) (m : Memory) : (s.setBuf m).cfg = s.cfg := rfl
@[simp] theorem State.setBuf_buf (s : State) (m : Memory) : (s.setBuf m).buf = m := rfl
@[simp] theorem State.setBuf_ptr (s : State) (m : Memory) : (s.setBuf m).ptr = s.ptr := rfl
@[simp] theorem State.setBuf_phase (s : State) (m : Memory) : (s.setBuf m).phase = s.phase := rfl
@[simp] theorem State.setBuf_page (s : State) (m : Memory) : (s.setBuf m).page = s.page := rfl
@[simp] theorem State.setBuf_est (s : State) (m : Memory) : (s.setBuf m).est = s.est := rfl
@[simp] theorem State.setBuf_idx (s : State) (m : Memory) : (s.setBuf m).idx = s.idx := rfl
@[simp] theorem State.setBuf_cnt (s : State) (m : Memory) : (s.setBuf m).cnt = s.cnt := rfl
@[simp] theorem State.setBuf_cur (s : State) (m : Memory) : (s.setBuf m).cur = s.cur := rfl
@[simp] theorem State.setBuf_replies (s : State) (m : Memory) : (s.setBuf m).replies = s.replies := rfl
@[simp] theorem State.setBuf_emitted (s : State) (m : Memory) : (s.setBuf m).emitted = s.emitted := rfl
@[simp] theorem State.setBuf_inputs (s : State) (m : Memory) : (s.setBuf m).inputs = s.inputs := rfl
@[simp] theorem State.setBuf_cap (s : State) (m : Memory) : (s.setBuf m).cap = s.cap := rfl

@[simp] theorem State.setPtr_cfg (s : State) (p : Half) : (s.setPtr p).cfg = s.cfg := rfl
@[simp] theorem State.setPtr_buf (s : State) (p : Half) : (s.setPtr p).buf = s.buf := rfl
@[simp] theorem State.setPtr_ptr (s : State) (p : Half) : (s.setPtr p).ptr = p := rfl
@[simp] theorem State.setPtr_phase (s : State) (p : Half) : (s.setPtr p).phase = s.phase := rfl
@[simp] theorem State.setPtr_page (s : State) (p : Half) : (s.setPtr p).page = s.page := rfl
@[simp] theorem State.setPtr_est (s : State) (p : Half) : (s.setPtr p).est = s.est := rfl
@[simp] theorem State.setPtr_idx (s : State) (p : Half) : (s.setPtr p).idx = s.idx := rfl
@[simp] theorem State.setPtr_cnt (s : State) (p : Half) : (s.setPtr p).cnt = s.cnt := rfl
@[simp] theorem State.setPtr_cur (s : State) (p : Half) : (s.setPtr p).cur = s.cur := rfl
@[simp] theorem State.setPtr_replies (s : State) (p : Half) : (s.setPtr p).replies = s.replies := rfl
@[simp] theorem State.setPtr_emitted (s : State) (p : Half) : (s.setPtr p).emitted = s.emitted := rfl
@[simp] theorem State.setPtr_inputs (s : State) (p : Half) : (s.setPtr p).inputs = s.inputs := rfl
@[simp] theorem State.setPtr_cap (s : State) (p : Half) : (s.setPtr p).cap = s.cap := rfl

@[simp] theorem State.setPhase_cfg (s : State) (p : Phase) : (s.setPhase p).cfg = s.cfg := rfl
@[simp] theorem State.setPhase_buf (s : State) (p : Phase) : (s.setPhase p).buf = s.buf := rfl
@[simp] theorem State.setPhase_ptr (s : State) (p : Phase) : (s.setPhase p).ptr = s.ptr := rfl
@[simp] theorem State.setPhase_phase (s : State) (p : Phase) : (s.setPhase p).phase = p := rfl
@[simp] theorem State.setPhase_page (s : State) (p : Phase) : (s.setPhase p).page = s.page := rfl
@[simp] theorem State.setPhase_est (s : State) (p : Phase) : (s.setPhase p).est = s.est := rfl
@[simp] theorem State.setPhase_idx (s : State) (p : Phase) : (s.setPhase p).idx = s.idx := rfl
@[simp] theorem State.setPhase_cnt (s : State) (p : Phase) : (s.setPhase p).cnt = s.cnt := rfl
@[simp] theorem State.setPhase_cur (s : State) (p : Phase) : (s.setPhase p).cur = s.cur := rfl
@[simp] theorem State.setPhase_replies (s : State) (p : Phase) : (s.setPhase p).replies = s.replies := rfl
@[simp] theorem State.setPhase_emitted (s : State) (p : Phase) : (s.setPhase p).emitted = s.emitted := rfl
@[simp] theorem State.setPhase_inputs (s : State) (p : Phase) : (s.setPhase p).inputs = s.inputs := rfl
@[simp] theorem State.setPhase_cap (s : State) (p : Phase) : (s.setPhase p).cap = s.cap := rfl

@[simp] theorem State.setPage_cfg (s : State) (b : Byte) : (s.setPage b).cfg = s.cfg := rfl
@[simp] theorem State.setPage_buf (s : State) (b : Byte) : (s.setPage b).buf = s.buf := rfl
@[simp] theorem State.setPage_ptr (s : State) (b : Byte) : (s.setPage b).ptr = s.ptr := rfl
@[simp] theorem State.setPage_phase (s : State) (b : Byte) : (s.setPage b).phase = s.phase := rfl
@[simp] theorem State.setPage_page (s : State) (b : Byte) : (s.setPage b).page = b := rfl
@[simp] theorem State.setPage_est (s : State) (b : Byte) : (s.setPage b).est = s.est := rfl
@[simp] theorem State.setPage_idx (s : State) (b : Byte) : (s.setPage b).idx = s.idx := rfl
@[simp] theorem State.setPage_cnt (s : State) (b : Byte) : (s.setPage b).cnt = s.cnt := rfl
@[simp] theorem State.setPage_cur (s : State) (b : Byte) : (s.setPage b).cur = s.cur := rfl
@[simp] theorem State.setPage_replies (s : State) (b : Byte) : (s.setPage b).replies = s.replies := rfl
@[simp] theorem State.setPage_emitted (s : State) (b : Byte) : (s.setPage b).emitted = s.emitted := rfl
@[simp] theorem State.setPage_inputs (s : State) (b : Byte) : (s.setPage b).inputs = s.inputs := rfl
@[simp] theorem State.setPage_cap (s : State) (b : Byte) : (s.setPage b).cap = s.cap := rfl

@[simp] theorem State.setEst_cfg (s : State) (e : EncState) : (s.setEst e).cfg = s.cfg := rfl
@[simp] theorem State.setEst_buf (s : State) (e : EncState) : (s.setEst e).buf = s.buf := rfl
@[simp] theorem State.setEst_ptr (s : State) (e : EncState) : (s.setEst e).ptr = s.ptr := rfl
@[simp] theorem State.setEst_phase (s : State) (e : EncState) : (s.setEst e).phase = s.phase := rfl
@[simp] theorem State.setEst_page (s : State) (e : EncState) : (s.setEst e).page = s.page := rfl
@[simp] theorem State.setEst_est (s : State) (e : EncState) : (s.setEst e).est = e := rfl
@[simp] theorem State.setEst_idx (s : State) (e : EncState) : (s.setEst e).idx = s.idx := rfl
@[simp] theorem State.setEst_cnt (s : State) (e : EncState) : (s.setEst e).cnt = s.cnt := rfl
@[simp] theorem State.setEst_cur (s : State) (e : EncState) : (s.setEst e).cur = s.cur := rfl
@[simp] theorem State.setEst_replies (s : State) (e : EncState) : (s.setEst e).replies = s.replies := rfl
@[simp] theorem State.setEst_emitted (s : State) (e : EncState) : (s.setEst e).emitted = s.emitted := rfl
@[simp] theorem State.setEst_inputs (s : State) (e : EncState) : (s.setEst e).inputs = s.inputs := rfl
@[simp] theorem State.setEst_cap (s : State) (e : EncState) : (s.setEst e).cap = s.cap := rfl

@[simp] theorem State.setIdx_cfg (s : State) (i : Half) : (s.setIdx i).cfg = s.cfg := rfl
@[simp] theorem State.setIdx_buf (s : State) (i : Half) : (s.setIdx i).buf = s.buf := rfl
@[simp] theorem State.setIdx_ptr (s : State) (i : Half) : (s.setIdx i).ptr = s.ptr := rfl
@[simp] theorem State.setIdx_phase (s : State) (i : Half) : (s.setIdx i).phase = s.phase := rfl
@[simp] theorem State.setIdx_page (s : State) (i : Half) : (s.setIdx i).page = s.page := rfl
@[simp] theorem State.setIdx_est (s : State) (i : Half) : (s.setIdx i).est = s.est := rfl
@[simp] theorem State.setIdx_idx (s : State) (i : Half) : (s.setIdx i).idx = i := rfl
@[simp] theorem State.setIdx_cnt (s : State) (i : Half) : (s.setIdx i).cnt = s.cnt := rfl
@[simp] theorem State.setIdx_cur (s : State) (i : Half) : (s.setIdx i).cur = s.cur := rfl
@[simp] theorem State.setIdx_replies (s : State) (i : Half) : (s.setIdx i).replies = s.replies := rfl
@[simp] theorem State.setIdx_emitted (s : State) (i : Half) : (s.setIdx i).emitted = s.emitted := rfl
@[simp] theorem State.setIdx_inputs (s : State) (i : Half) : (s.setIdx i).inputs = s.inputs := rfl
@[simp] theorem State.setIdx_cap (s : State) (i : Half) : (s.setIdx i).cap = s.cap := rfl

@[simp] theorem State.setCnt_cfg (s : State) (n : Nat) : (s.setCnt n).cfg = s.cfg := rfl
@[simp] theorem State.setCnt_buf (s : State) (n : Nat) : (s.setCnt n).buf = s.buf := rfl
@[simp] theorem State.setCnt_ptr (s : State) (n : Nat) : (s.setCnt n).ptr = s.ptr := rfl
@[simp] theorem State.setCnt_phase (s : State) (n : Nat) : (s.setCnt n).phase = s.phase := rfl
@[simp] theorem State.setCnt_page (s : State) (n : Nat) : (s.setCnt n).page = s.page := rfl
@[simp] theorem State.setCnt_est (s : State) (n : Nat) : (s.setCnt n).est = s.est := rfl
@[simp] theorem State.setCnt_idx (s : State) (n : Nat) : (s.setCnt n).idx = s.idx := rfl
@[simp] theorem State.setCnt_cnt (s : State) (n : Nat) : (s.setCnt n).cnt = n := rfl
@[simp] theorem State.setCnt_cur (s : State) (n : Nat) : (s.setCnt n).cur = s.cur := rfl
@[simp] theorem State.setCnt_replies (s : State) (n : Nat) : (s.setCnt n).replies = s.replies := rfl
@[simp] theorem State.setCnt_emitted (s : State) (n : Nat) : (s.setCnt n).emitted = s.emitted := rfl
@[simp] theorem State.setCnt_inputs (s : State) (n : Nat) : (s.setCnt n).inputs = s.inputs := rfl
@[simp] theorem State.setCnt_cap (s : State) (n : Nat) : (s.setCnt n).cap = s.cap := rfl

@[simp] theorem State.setCur_cfg (s : State) (b : Byte) : (s.setCur b).cfg = s.cfg := rfl
@[simp] theorem State.setCur_buf (s : State) (b : Byte) : (s.setCur b).buf = s.buf := rfl
@[simp] theorem State.setCur_ptr (s : State) (b : Byte) : (s.setCur b).ptr = s.ptr := rfl
@[simp] theorem State.setCur_phase (s : State) (b : Byte) : (s.setCur b).phase = s.phase := rfl
@[simp] theorem State.setCur_page (s : State) (b : Byte) : (s.setCur b).page = s.page := rfl
@[simp] theorem State.setCur_est (s : State) (b : Byte) : (s.setCur b).est = s.est := rfl
@[simp] theorem State.setCur_idx (s : State) (b : Byte) : (s.setCur b).idx = s.idx := rfl
@[simp] theorem State.setCur_cnt (s : State) (b : Byte) : (s.setCur b).cnt = s.cnt := rfl
@[simp] theorem State.setCur_cur (s : State) (b : Byte) : (s.setCur b).cur = b := rfl
@[simp] theorem State.setCur_replies (s : State) (b : Byte) : (s.setCur b).replies = s.replies := rfl
@[simp] theorem State.setCur_emitted (s : State) (b : Byte) : (s.setCur b).emitted = s.emitted := rfl
@[simp] theorem State.setCur_inputs (s : State) (b : Byte) : (s.setCur b).inputs = s.inputs := rfl
@[simp] theorem State.setCur_cap (s : State) (b : Byte) : (s.setCur b).cap = s.cap := rfl

@[simp] theorem State.pushReply_cfg (s : State) (b : Byte) : (s.pushReply b).cfg = s.cfg := rfl
@[simp] theorem State.pushReply_buf (s : State) (b : Byte) : (s.pushReply b).buf = s.buf := rfl
@[simp] theorem State.pushReply_ptr (s : State) (b : Byte) : (s.pushReply b).ptr = s.ptr := rfl
@[simp] theorem State.pushReply_phase (s : State) (b : Byte) : (s.pushReply b).phase = s.phase := rfl
@[simp] theorem State.pushReply_page (s : State) (b : Byte) : (s.pushReply b).page = s.page := rfl
@[simp] theorem State.pushReply_est (s : State) (b : Byte) : (s.pushReply b).est = s.est := rfl
@[simp] theorem State.pushReply_idx (s : State) (b : Byte) : (s.pushReply b).idx = s.idx := rfl
@[simp] theorem State.pushReply_cnt (s : State) (b : Byte) : (s.pushReply b).cnt = s.cnt := rfl
@[simp] theorem State.pushReply_cur (s : State) (b : Byte) : (s.pushReply b).cur = s.cur := rfl
@[simp] theorem State.pushReply_replies (s : State) (b : Byte) : (s.pushReply b).replies = s.replies ++ [b] := rfl
@[simp] theorem State.pushReply_emitted (s : State) (b : Byte) : (s.pushReply b).emitted = s.emitted := rfl
@[simp] theorem State.pushReply_inputs (s : State) (b : Byte) : (s.pushReply b).inputs = s.inputs := rfl
@[simp] theorem State.pushReply_cap (s : State) (b : Byte) : (s.pushReply b).cap = s.cap := rfl

@[simp] theorem State.pushEmit_cfg (s : State) (b : Byte) : (s.pushEmit b).cfg = s.cfg := rfl
@[simp] theorem State.pushEmit_buf (s : State) (b : Byte) : (s.pushEmit b).buf = s.buf := rfl
@[simp] theorem State.pushEmit_ptr (s : State) (b : Byte) : (s.pushEmit b).ptr = s.ptr := rfl
@[simp] theorem State.pushEmit_phase (s : State) (b : Byte) : (s.pushEmit b).phase = s.phase := rfl
@[simp] theorem State.pushEmit_page (s : State) (b : Byte) : (s.pushEmit b).page = s.page := rfl
@[simp] theorem State.pushEmit_est (s : State) (b : Byte) : (s.pushEmit b).est = s.est := rfl
@[simp] theorem State.pushEmit_idx (s : State) (b : Byte) : (s.pushEmit b).idx = s.idx := rfl
@[simp] theorem State.pushEmit_cnt (s : State) (b : Byte) : (s.pushEmit b).cnt = s.cnt := rfl
@[simp] theorem State.pushEmit_cur (s : State) (b : Byte) : (s.pushEmit b).cur = s.cur := rfl
@[simp] theorem State.pushEmit_replies (s : State) (b : Byte) : (s.pushEmit b).replies = s.replies := rfl
@[simp] theorem State.pushEmit_emitted (s : State) (b : Byte) : (s.pushEmit b).emitted = s.emitted ++ [b] := rfl
@[simp] theorem State.pushEmit_inputs (s : State) (b : Byte) : (s.pushEmit b).inputs = s.inputs := rfl
@[simp] theorem State.pushEmit_cap (s : State) (b : Byte) : (s.pushEmit b).cap = s.cap := rfl

@[simp] theorem State.setInputs_cfg (s : State) (l : List Input) : (s.setInputs l).cfg = s.cfg := rfl
@[simp] theorem State.setInputs_buf (s : State) (l : List Input) : (s.setInputs l).buf = s.buf := rfl
@[simp] theorem State.setInputs_ptr (s : State) (l : List Input) : (s.setInputs l).ptr = s.ptr := rfl
@[simp] theorem State.setInputs_phase (s : State) (l : List Input) : (s.setInputs l).phase = s.phase := rfl
@[simp] theorem State.setInputs_page (s : State) (l : List Input) : (s.setInputs l).page = s.page := rfl
@[simp] theorem State.setInputs_est (s : State) (l : List Input) : (s.setInputs l).est = s.est := rfl
@[simp] theorem State.setInputs_idx (s : State) (l : List Input) : (s.setInputs l).idx = s.idx := rfl
@[simp] theorem State.setInputs_cnt (s : State) (l : List Input) : (s.setInputs l).cnt = s.cnt := rfl
@[simp] theorem State.setInputs_cur (s : State) (l : List Input) : (s.setInputs l).cur = s.cur := rfl
@[simp] theorem State.setInputs_replies (s : State) (l : List Input) : (s.setInputs l).replies = s.replies := rfl
@[simp] theorem State.setInputs_emitted (s : State) (l : List Input) : (s.setInputs l).emitted = s.emitted := rfl
@[simp] theorem State.setInputs_inputs (s : State) (l : List Input) : (s.setInputs l).inputs = l := rfl
@[simp] theorem State.setInputs_cap (s : State) (l : List Input) : (s.setInputs l).cap = s.cap := rfl

@[simp] theorem State.ctx_setInputs (s : State) (l : List Input) : (s.setInputs l).ctx = s.ctx := rfl

@[simp] theorem State.setInputs_self (s : State) : s.setInputs s.inputs = s := rfl

@[simp] theorem State.setInputs_setInputs (s : State) (k l : List Input) :
    (s.setInputs k).setInputs l = s.setInputs l := rfl

@[simp] theorem State.resetOf_cfg (c : Config) : (State.resetOf c).cfg = c := rfl

/-- The context the host's decoder front end uses is the one of the reset state. -/
theorem State.reset_ctx : State.reset.ctx = Context.reset := rfl

end Sys2Proof.Machine
end

