-- ==== Sys2Proof/Laws/Ops.lean ====
section
/-! SUPPORT. One lemma per shared operation: everything it can do. -/

namespace Sys2Proof.Machine

variable {s t : State} {i : Nat} {v b : Byte}

theorem memRead_of_lt (h : i < s.cap) (k : Byte → Result) : memRead s i k = k (s.buf.read i) := if_pos h

theorem memRead_of_ge (h : ¬ i < s.cap) (k : Byte → Result) : memRead s i k = .fault (.bufferBounds i) := if_neg h

theorem memRead_next {k : Byte → Result} : memRead s i k = .next t ↔ i < s.cap ∧ k (s.buf.read i) = .next t := by
  unfold memRead; split <;> simp_all

theorem memWrite_of_lt (h : i < s.cap) (k : State → Result) :
    memWrite s i v k = k (s.setBuf (s.buf.write i v)) := if_pos h

theorem memWrite_next {k : State → Result} :
    memWrite s i v k = .next t ↔ i < s.cap ∧ k (s.setBuf (s.buf.write i v)) = .next t := by
  unfold memWrite; split <;> simp_all

@[simp] theorem drop_eq (s : State) : drop s = .next s := rfl
@[simp] theorem reply_eq (s : State) (b : Byte) : reply s b = s.pushReply b := rfl
@[simp] theorem emit_eq (s : State) (b : Byte) : emit s b = s.pushEmit b := rfl

theorem takeInput_none : takeInput s = none ↔ s.inputs = [] := by
  unfold takeInput; split <;> simp_all

theorem takeInput_some {w : Input} :
    takeInput s = some (w, t) ↔ ∃ rest, s.inputs = w :: rest ∧ t = s.setInputs rest := by
  unfold takeInput
  split
  · simp_all
  · next w' rest h =>
    rw [h]
    constructor
    · rintro ⟨rfl, rfl⟩; exact ⟨rest, rfl, rfl⟩
    · rintro ⟨_, ⟨rfl, rfl⟩, rfl⟩; rfl

theorem guardConfig_next {k : Result} : guardConfig s k = .next t ↔ s.cfg.inDomain = true ∧ k = .next t := by
  unfold guardConfig; split <;> simp_all

theorem guardIdx_next {k : Result} : guardIdx s k = .next t ↔ s.idx.toNat < s.cap ∧ k = .next t := by
  unfold guardIdx; split <;> simp_all

theorem guardIdx_of_lt (h : s.idx.toNat < s.cap) (k : Result) : guardIdx s k = k := if_pos h

theorem guardIdx_of_ge (h : ¬ s.idx.toNat < s.cap) (k : Result) : guardIdx s k = .refused .encoderInvariant :=
  if_neg h

theorem guardGap_of (h : s.idx.toNat < s.cap ∧ 1 ≤ s.cnt ∧ s.cnt ≤ s.cfg.resetBytes) (k : Result) :
    guardGap s k = k := if_pos h

theorem guardGap_of_not (h : ¬ (s.idx.toNat < s.cap ∧ 1 ≤ s.cnt ∧ s.cnt ≤ s.cfg.resetBytes)) (k : Result) :
    guardGap s k = .refused .encoderInvariant := if_neg h

theorem guardGap_next {k : Result} : guardGap s k = .next t ↔
    (s.idx.toNat < s.cap ∧ 1 ≤ s.cnt ∧ s.cnt ≤ s.cfg.resetBytes) ∧ k = .next t := by
  unfold guardGap; split <;> simp_all

theorem fetchLater_of_lt (h : s.idx.toNat < s.cap) (k : Byte → Result) : fetchLater s k = k (laterByte s) := by
  unfold fetchLater laterByte; split <;> simp_all [memRead_of_lt h]

/-- With the index in bounds an emit tick after `G0` goes on with that byte. -/
theorem guardIdx_fetchLater_next {k : Byte → Result} :
    guardIdx s (fetchLater s k) = .next t ↔ s.idx.toNat < s.cap ∧ k (laterByte s) = .next t := by
  rw [guardIdx_next]
  exact and_congr_right fun h => by rw [fetchLater_of_lt h]

theorem guardIdx_memRead_next {k : Byte → Result} :
    guardIdx s (memRead s s.idx.toNat k) = .next t ↔
      s.idx.toNat < s.cap ∧ k (s.buf.read s.idx.toNat) = .next t := by
  rw [guardIdx_next]
  exact and_congr_right fun h => by rw [memRead_of_lt h]

theorem inBounds_iff {c : Config} : inBounds c i = true ↔ i < c.cap := decide_eq_true_iff

theorem State.cap_eq (s : State) : s.cap = s.cfg.cap := rfl

/-- A native data byte is stored at the pointer exactly when the pointer is in bounds (R94). -/
theorem nativeTarget_some : nativeTarget s = some i ↔ s.ptr.toNat < s.cap ∧ i = s.ptr.toNat := by
  unfold nativeTarget
  rw [State.cap_eq, ← inBounds_iff]
  split
  · next h => simp [h, eq_comm (b := i)]
  · next h => simp [h]

theorem nativeTarget_lt (h : nativeTarget s = some i) : i < s.cap := by
  obtain ⟨hlt, rfl⟩ := nativeTarget_some.mp h; exact hlt

/-- When and where a compatible data byte is stored (R109). -/
theorem compatTarget_some : compatTarget s = some i ↔
    s.page = 0x00 ∧ s.cfg.colorBase.toNat ≤ s.ptr.toNat ∧
      remap (s.ptr.toNat - s.cfg.colorBase.toNat) < s.cap ∧
      i = remap (s.ptr.toNat - s.cfg.colorBase.toNat) := by
  unfold compatTarget
  rw [State.cap_eq, ← inBounds_iff]
  split
  · next hp =>
    have hp : s.page ≠ 0x00 := by simpa [pageClosed] using hp
    exact iff_of_false (by simp) fun h => hp h.1
  · next hp =>
    have hp : s.page = 0x00 := by simpa [pageClosed] using hp
    split
    · next hb =>
      have hb : s.ptr.toNat < s.cfg.colorBase.toNat := by simpa [belowBase] using hb
      simp only [reduceCtorEq, false_iff, not_and]
      omega
    · next hb =>
      have hb : s.cfg.colorBase.toNat ≤ s.ptr.toNat := by simpa [belowBase] using hb
      dsimp only
      split
      · next ht => simp [hp, hb, ht, eq_comm (b := i)]
      · next ht => simp [ht]

theorem compatTarget_lt (h : compatTarget s = some i) : i < s.cap := by
  obtain ⟨-, -, hlt, rfl⟩ := compatTarget_some.mp h; exact hlt

/-- An address match leaves the page alone or clears it (R107). -/
theorem matchPage_cases (s : State) : matchPage s = s ∨ matchPage s = s.setPage 0x00 := by
  unfold matchPage; split <;> simp

/-- A read-direction address match leaves the pointer alone or clears it (R91). -/
theorem matchReadPtr_cases (s : State) : matchReadPtr s = s ∨ matchReadPtr s = s.setPtr 0x0000 := by
  unfold matchReadPtr; split <;> simp

/-- The `G0` tick latches the byte or leaves the latch alone (R80). -/
theorem latch_cases (s : State) (v : Byte) :
    (s.cfg.encFetch = .perGroup ∧ latch s v = s) ∨ (s.cfg.encFetch = .latched ∧ latch s v = s.setCur v) := by
  unfold latch; split <;> simp_all

/-- After group 3: the next byte, or the gap (R84). -/
theorem advanceByte_cases (s : State) :
    (s.idx.toNat + 1 < s.cap ∧ advanceByte s = (s.setIdx (s.idx + 1)).setEst .g0) ∨
    (s.cap ≤ s.idx.toNat + 1 ∧ advanceByte s = ((s.setIdx 0).setCnt s.cfg.resetBytes).setEst .rst) := by
  unfold advanceByte moreBytes
  rw [State.cap_eq]
  by_cases h : s.idx.toNat + 1 < s.cfg.cap
  · exact .inl ⟨h, by simp [h]⟩
  · exact .inr ⟨by omega, by simp [h]⟩

/-- The countdown: the gap goes on, or ends (R85). -/
theorem countDown_cases (s : State) :
    (2 ≤ s.cnt ∧ countDown s = s.setCnt (s.cnt - 1)) ∨
    (s.cnt ≤ 1 ∧ countDown s = ((s.setCnt 0).setIdx 0).setEst .g0) := by
  unfold countDown
  by_cases h : s.cnt ≤ 1
  · exact .inr ⟨h, by simp [show s.cnt - 1 = 0 by omega]⟩
  · exact .inl ⟨by omega, by simp [show s.cnt - 1 ≠ 0 by omega]⟩

/-- The increment stays below the width it wraps at (R26). -/
theorem inc_toNat (c : Config) (p : Half) : (inc c p).toNat = (p.toNat + 1) % 2 ^ c.ptrWidth := by
  have hw : 2 ^ c.ptrWidth ≤ 2 ^ 16 := by
    unfold Config.ptrWidth
    split
    · exact le_rfl
    · split <;> decide
  have hlt : (p.toNat + 1) % 2 ^ c.ptrWidth < 2 ^ c.ptrWidth := Nat.mod_lt _ (Nat.two_pow_pos _)
  simp only [inc, BitVec.toNat_ofNat]
  exact Nat.mod_eq_of_lt (lt_of_lt_of_le hlt hw)

theorem inc_lt (c : Config) (p : Half) : (inc c p).toNat < 2 ^ c.ptrWidth := by
  rw [inc_toNat]; exact Nat.mod_lt _ (Nat.two_pow_pos _)

/-- The remap written out: channels 0 and 1 change places (R108). -/
theorem remap_eq (r : Nat) :
    remap r = if r % 3 = 0 then r + 1 else if r % 3 = 1 then r - 1 else r := by
  unfold remap swap
  split
  · omega
  · split <;> omega

end Sys2Proof.Machine
end

