-- ==== Sys2Proof/Laws/Step.lean ====
section
/-! SUPPORT. What a step can do, said once, and how a run over event words unfolds. -/

namespace Sys2Proof.Machine

variable {s t : State} {i : Instr}

/-- A step that answers a next state found nothing pending, or ran the decoded oldest input. -/
theorem step_cases (h : step s = .next t) :
    s.cfg.inDomain = true ∧
      ((s.inputs = [] ∧ t = s) ∨
        ∃ w rest, s.inputs = w :: rest ∧ exec (decode s.ctx w) (s.setInputs rest) = .next t) := by
  obtain ⟨hd, h⟩ := guardConfig_next.mp h
  refine ⟨hd, ?_⟩
  cases hi : s.inputs with
  | nil =>
    rw [takeInput_none.mpr hi] at h
    exact .inl ⟨rfl, by simpa using h.symm⟩
  | cons w rest =>
    rw [takeInput_some.mpr ⟨rest, hi, rfl⟩] at h
    exact .inr ⟨w, rest, rfl, h⟩

theorem step_of_input {w : Input} {rest : List Input} (h : s.inputs = w :: rest) :
    step s = guardConfig s (exec (decode s.ctx w) (s.setInputs rest)) := by
  unfold step
  rw [takeInput_some.mpr ⟨rest, h, rfl⟩]

@[simp] theorem andThen_next (k : State → Result) : andThen (.next s) k = k s := rfl
@[simp] theorem andThen_fault (f : Fault) (k : State → Result) : andThen (.fault f) k = .fault f := rfl
@[simp] theorem andThen_refused (f : Refusal) (k : State → Result) : andThen (.refused f) k = .refused f := rfl

theorem andThen_assoc (r : Result) (k l : State → Result) :
    andThen (andThen r k) l = andThen r fun s => andThen (k s) l := by
  cases r <;> rfl

theorem guardConfig_andThen (r : Result) (k : State → Result) :
    guardConfig s (andThen r k) = andThen (guardConfig s r) k := by
  unfold guardConfig; split <;> rfl

theorem memRead_setInputs (l : List Input) (n : Nat) (k : Byte → State → Result)
    (hk : ∀ v, k v (s.setInputs l) = andThen (k v s) fun t => .next (t.setInputs l)) :
    memRead (s.setInputs l) n (fun v => k v (s.setInputs l)) =
      andThen (memRead s n fun v => k v s) fun t => .next (t.setInputs l) := by
  by_cases h : n < s.cap
  · rw [memRead_of_lt h, memRead_of_lt (s := s.setInputs l) h]; exact hk _
  · rw [memRead_of_ge h, memRead_of_ge (s := s.setInputs l) h]; rfl

theorem fetchLater_setInputs (l : List Input) (k : Byte → State → Result)
    (hk : ∀ v, k v (s.setInputs l) = andThen (k v s) fun t => .next (t.setInputs l)) :
    fetchLater (s.setInputs l) (fun v => k v (s.setInputs l)) =
      andThen (fetchLater s fun v => k v s) fun t => .next (t.setInputs l) := by
  unfold fetchLater
  simp only [State.setInputs_cfg, State.setInputs_idx, State.setInputs_cur]
  split
  · exact memRead_setInputs l _ k hk
  · exact hk _

theorem guardIdx_setInputs (l : List Input) {r r' : Result}
    (h : r' = andThen r fun t => .next (t.setInputs l)) :
    guardIdx (s.setInputs l) r' = andThen (guardIdx s r) fun t => .next (t.setInputs l) := by
  by_cases hlt : s.idx.toNat < s.cap
  · rw [guardIdx_of_lt hlt, guardIdx_of_lt (s := s.setInputs l) hlt]; exact h
  · rw [guardIdx_of_ge hlt, guardIdx_of_ge (s := s.setInputs l) hlt]; rfl

theorem matchPage_setInputs (l : List Input) : matchPage (s.setInputs l) = (matchPage s).setInputs l := by
  unfold matchPage
  by_cases h : pageClearedByMatch s.cfg = true <;> simp only [State.setInputs_cfg, h] <;> rfl

theorem matchReadPtr_setInputs (l : List Input) : matchReadPtr (s.setInputs l) = (matchReadPtr s).setInputs l := by
  unfold matchReadPtr; simp only [State.setInputs_cfg]; split <;> rfl

theorem advanceByte_setInputs (l : List Input) : advanceByte (s.setInputs l) = (advanceByte s).setInputs l := by
  unfold advanceByte
  by_cases h : moreBytes s.cfg s.idx = true <;> simp only [State.setInputs_cfg, State.setInputs_idx, h] <;> rfl

theorem countDown_setInputs (l : List Input) : countDown (s.setInputs l) = (countDown s).setInputs l := by
  unfold countDown
  by_cases h : s.cnt - 1 = 0 <;> simp only [State.setInputs_cnt, State.setCnt_cnt, h] <;> rfl

theorem latch_setInputs (l : List Input) (v : Byte) : latch (s.setInputs l) v = (latch s v).setInputs l := by
  unfold latch; simp only [State.setInputs_cfg]; split <;> rfl

theorem execTxReq_of_lt (h : inBounds s.cfg s.ptr.toNat = true) :
    execTxReq s = memRead s s.ptr.toNat fun v => .next ((reply s v).setPtr (inc s.cfg s.ptr)) := if_pos h

theorem execTxReq_of_ge (h : ¬ inBounds s.cfg s.ptr.toNat = true) : execTxReq s = .next (reply s 0x00) := if_neg h

/-- The events of the two ports neither read nor write what is pending. -/
theorem exec_setInputs (hi : i.agent ≠ some .controller) (l : List Input) :
    exec i (s.setInputs l) = andThen (exec i s) fun t => .next (t.setInputs l) := by
  cases i with
  | wireAddr d => exact absurd rfl hi
  | wireOther b => exact absurd rfl hi
  | addrMatchW =>
    exact congrArg Host.Outcome.next (matchPage_setInputs (s := (s.setPhase .addr).setPtr 0x0000) l)
  | addrMatchR =>
    refine congrArg Host.Outcome.next ?_
    exact (congrArg matchPage (matchReadPtr_setInputs (s := s.setPhase .addr) l)).trans (matchPage_setInputs l)
  | rxAddrLo b => rfl
  | rxAddrHi b => rfl
  | rxDataN b =>
    show execRxDataN b (s.setInputs l) = andThen (execRxDataN b s) _
    unfold execRxDataN
    have h : nativeTarget (s.setInputs l) = nativeTarget s := rfl
    rw [h]
    split
    · next a ha =>
      rw [memWrite_of_lt (nativeTarget_lt ha), memWrite_of_lt (s := s.setInputs l) (nativeTarget_lt ha)]
      rfl
    · rfl
  | rxAddrC b => rfl
  | rxPage b => rfl
  | rxDataC b =>
    show execRxDataC b (s.setInputs l) = andThen (execRxDataC b s) _
    unfold execRxDataC
    have h : compatTarget (s.setInputs l) = compatTarget s := rfl
    rw [h]
    split
    · next a ha =>
      rw [memWrite_of_lt (compatTarget_lt ha), memWrite_of_lt (s := s.setInputs l) (compatTarget_lt ha)]
      rfl
    · rfl
  | rxInvalid b => rfl
  | txReq =>
    show execTxReq (s.setInputs l) = andThen (execTxReq s) _
    by_cases h : inBounds s.cfg s.ptr.toNat = true
    · rw [execTxReq_of_lt h, execTxReq_of_lt (s := s.setInputs l) h]
      exact memRead_setInputs l _ (fun v s => .next ((reply s v).setPtr (inc s.cfg s.ptr))) fun _ => rfl
    · rw [execTxReq_of_ge h, execTxReq_of_ge (s := s.setInputs l) h]; rfl
  | stop => rfl
  | nack => rfl
  | encG0 =>
    refine guardIdx_setInputs l (memRead_setInputs l _
      (fun v s => .next ((emit (latch s v) (s.cfg.lut.get (group0 v))).setEst .g1)) fun v => ?_)
    simp only [latch_setInputs]
    rfl
  | encG1 =>
    exact guardIdx_setInputs l (fetchLater_setInputs l
      (fun v s => .next ((emit s (s.cfg.lut.get (group1 v))).setEst .g2)) fun _ => rfl)
  | encG2 =>
    exact guardIdx_setInputs l (fetchLater_setInputs l
      (fun v s => .next ((emit s (s.cfg.lut.get (group2 v))).setEst .g3)) fun _ => rfl)
  | encG3 =>
    refine guardIdx_setInputs l (fetchLater_setInputs l
      (fun v s => .next (advanceByte (emit s (s.cfg.lut.get (group3 v))))) fun v => ?_)
    exact congrArg Host.Outcome.next
      (advanceByte_setInputs (s := emit s (s.cfg.lut.get (group3 v))) l)
  | encRst =>
    show guardGap (s.setInputs l) _ = andThen (guardGap s _) _
    by_cases h : s.idx.toNat < s.cap ∧ 1 ≤ s.cnt ∧ s.cnt ≤ s.cfg.resetBytes
    · rw [guardGap_of h, guardGap_of (s := s.setInputs l) h]
      exact congrArg Host.Outcome.next (countDown_setInputs (s := emit s 0x00) l)
    · rw [guardGap_of_not h, guardGap_of_not (s := s.setInputs l) h]; rfl
  | reserved => rfl

/-- The events of the two ports leave what is pending as it is. -/
theorem exec_inputs (hi : i.agent ≠ some .controller) (h : exec i s = .next t) : t.inputs = s.inputs := by
  have h' := exec_setInputs (s := s) hi s.inputs
  rw [State.setInputs_self, h, andThen_next] at h'
  have : t = t.setInputs s.inputs := by simpa using h'
  rw [this]; rfl

/-- An event word is never a wire row. -/
theorem decodeEvent_agent (c : Context) (e : EventWord) : (decodeEvent c e).agent ≠ some .controller := by
  obtain ⟨m, p, est⟩ := c
  unfold decodeEvent
  dsimp only
  repeat' split
  all_goals first | decide | skip
  · cases m <;> cases p <;> simp [decodeRx, Instr.agent]
  · cases est <;> simp [decodeTick, Instr.agent]

/-- A run of no steps. -/
@[simp] theorem feed_nil (s : State) : s.feed [] = .next s := rfl

/-- One event of a run: the block handles it, then the rest. -/
theorem feed_cons (s : State) (e : EventWord) (ws : List Input) :
    s.feed (.event e :: ws) =
      guardConfig s (andThen (exec (decodeEvent s.ctx e) s) fun t => t.feed ws) := by
  have hstep : step (s.setInputs (.event e :: ws ++ s.inputs)) =
      guardConfig s (andThen (exec (decodeEvent s.ctx e) s) fun t => .next (t.setInputs (ws ++ s.inputs))) := by
    rw [step_of_input (w := .event e) (rest := ws ++ s.inputs) rfl]
    simp only [State.ctx_setInputs, State.setInputs_setInputs, decode]
    rw [exec_setInputs (decodeEvent_agent _ _)]
    rfl
  have hrun : s.feed (.event e :: ws) =
      andThen (step (s.setInputs (.event e :: ws ++ s.inputs))) (runSteps ws.length) := rfl
  rw [hrun]
  rw [hstep]
  unfold guardConfig
  by_cases hd : s.cfg.inDomain = true
  · rw [if_pos hd, if_pos hd]
    cases hx : exec (decodeEvent s.ctx e) s with
    | next t =>
      show runSteps ws.length (t.setInputs (ws ++ s.inputs)) = t.feed ws
      rw [State.feed, exec_inputs (decodeEvent_agent _ _) hx]
    | fault f => rfl
    | refused f => rfl
  · rw [if_neg hd, if_neg hd]; rfl

/-- A run over event words in two parts. -/
theorem feed_append (s : State) (ws vs : List Input) (hw : ∀ w ∈ ws, ∃ e, w = .event e) :
    s.feed (ws ++ vs) = andThen (s.feed ws) fun t => t.feed vs := by
  induction ws generalizing s with
  | nil => rfl
  | cons w ws ih =>
    obtain ⟨e, rfl⟩ := hw w (by simp)
    rw [List.cons_append, feed_cons, feed_cons, ← guardConfig_andThen, andThen_assoc]
    congr 2
    funext t
    exact ih t fun w hw' => hw w (by simp [hw'])

end Sys2Proof.Machine
end

