-- ==== Sys2Proof/Laws/Exec.lean ====
section
/-! SUPPORT. Everything an operation can do when it answers a next state, in the named updates: cited by the proofs
instead of unfolding a meaning. -/

namespace Sys2Proof.Machine

/-- The effect of an operation that answers a next state. -/
def Effect (i : Instr) (s t : State) : Prop :=
  match i with
  | .wireAddr d => t = s.setInputs (.event (matchEvent d) :: s.inputs)
  | .wireOther _ => t = s
  | .addrMatchW => t = matchPage ((s.setPhase .addr).setPtr 0x0000)
  | .addrMatchR => t = matchPage (matchReadPtr (s.setPhase .addr))
  | .rxAddrLo b => t = (s.setPtr (ptrOfByte b)).setPhase .addrHi
  | .rxAddrHi b => t = (s.setPtr (ptrOfHigh b s.ptr)).setPhase .data
  | .rxDataN b =>
    (∃ a, nativeTarget s = some a ∧ t = (s.setBuf (s.buf.write a b)).setPtr (s.ptr + 1)) ∨
      (nativeTarget s = none ∧ t = s)
  | .rxAddrC b => t = (s.setPtr (ptrOfByte b)).setPhase (if b = s.cfg.pageSel then .page else .data)
  | .rxPage b => t = ((s.setPage b).setPtr (inc s.cfg s.ptr)).setPhase .data
  | .rxDataC b =>
    (∃ a, compatTarget s = some a ∧ t = (s.setBuf (s.buf.write a b)).setPtr (inc s.cfg s.ptr)) ∨
      (compatTarget s = none ∧ t = s.setPtr (inc s.cfg s.ptr))
  | .rxInvalid _ => False
  | .txReq =>
    (s.ptr.toNat < s.cap ∧ t = (s.pushReply (s.buf.read s.ptr.toNat)).setPtr (inc s.cfg s.ptr)) ∨
      (s.cap ≤ s.ptr.toNat ∧ t = s.pushReply 0x00)
  | .stop => t = s
  | .nack => t = s
  | .encG0 => s.idx.toNat < s.cap ∧
      t = ((latch s (s.buf.read s.idx.toNat)).pushEmit
        (s.cfg.lut.get (group0 (s.buf.read s.idx.toNat)))).setEst .g1
  | .encG1 => s.idx.toNat < s.cap ∧ t = (s.pushEmit (s.cfg.lut.get (group1 (laterByte s)))).setEst .g2
  | .encG2 => s.idx.toNat < s.cap ∧ t = (s.pushEmit (s.cfg.lut.get (group2 (laterByte s)))).setEst .g3
  | .encG3 => s.idx.toNat < s.cap ∧ t = advanceByte (s.pushEmit (s.cfg.lut.get (group3 (laterByte s))))
  | .encRst => (s.idx.toNat < s.cap ∧ 1 ≤ s.cnt ∧ s.cnt ≤ s.cfg.resetBytes) ∧ t = countDown (s.pushEmit 0x00)
  | .reserved => False

theorem next_eq {s t : State} (h : (Host.Outcome.next s : Result) = .next t) : t = s :=
  (Host.Outcome.next.inj h).symm

/-- An operation that answers a next state has its effect. -/
theorem exec_effect {i : Instr} {s t : State} (h : exec i s = .next t) : Effect i s t := by
  cases i with
  | rxDataN b =>
    change execRxDataN b s = .next t at h
    unfold execRxDataN at h
    cases hn : nativeTarget s with
    | none => rw [hn] at h; exact .inr ⟨hn, next_eq h⟩
    | some a =>
      rw [hn] at h
      exact .inl ⟨a, hn, next_eq (memWrite_next.mp h).2⟩
  | rxDataC b =>
    change execRxDataC b s = .next t at h
    unfold execRxDataC at h
    cases hn : compatTarget s with
    | none => rw [hn] at h; exact .inr ⟨hn, next_eq h⟩
    | some a =>
      rw [hn] at h
      exact .inl ⟨a, hn, next_eq (memWrite_next.mp h).2⟩
  | txReq =>
    change execTxReq s = .next t at h
    by_cases hp : s.ptr.toNat < s.cap
    · rw [execTxReq_of_lt (inBounds_iff.mpr hp), memRead_of_lt hp] at h
      exact .inl ⟨hp, next_eq h⟩
    · rw [execTxReq_of_ge fun h' => hp (inBounds_iff.mp h')] at h
      exact .inr ⟨Nat.le_of_not_lt hp, next_eq h⟩
  | encG0 => exact (guardIdx_memRead_next.mp h).imp id next_eq
  | encG1 => exact (guardIdx_fetchLater_next.mp h).imp id next_eq
  | encG2 => exact (guardIdx_fetchLater_next.mp h).imp id next_eq
  | encG3 => exact (guardIdx_fetchLater_next.mp h).imp id next_eq
  | encRst => exact (guardGap_next.mp h).imp id next_eq
  | rxInvalid b => exact nomatch h
  | reserved => exact nomatch h
  | wireAddr d => exact next_eq h
  | wireOther b => exact next_eq h
  | addrMatchW => exact next_eq h
  | addrMatchR => exact next_eq h
  | rxAddrLo b => exact next_eq h
  | rxAddrHi b => exact next_eq h
  | rxAddrC b => exact next_eq h
  | rxPage b => exact next_eq h
  | stop => exact next_eq h
  | nack => exact next_eq h

/-- The host's run is the same iteration of `step`. -/
theorem run_core (n : Nat) (s : State) : Host.Core.run Sys2Proof.core n s = runSteps n s := by
  induction n generalizing s with
  | zero => rfl
  | succ n ih =>
    have h := Host.Core.run.eq_2 Sys2Proof.core s n
    change _ = andThen (step s) (runSteps n)
    cases hs : step s with
    | next t =>
      rw [show Sys2Proof.core.step s = .next t from hs] at h
      exact h.trans (ih t)
    | fault f =>
      rw [show Sys2Proof.core.step s = .fault f from hs] at h
      exact h
    | refused f =>
      rw [show Sys2Proof.core.step s = .refused f from hs] at h
      exact h

end Sys2Proof.Machine
end

