-- ==== Sys2Proof/Laws/PerInstr.lean ====
section
/-! SUPPORT. Statements about every instruction as syntax, one lemma per constructor. -/

namespace Sys2Proof.Laws.MatchesTable

/-- The encoding of a well-formed instruction has the format of its row of spec/opcode_table.json and meets the
row's match under the row's mask. -/
def Statement (i : Instr) : Prop := i.wellFormed = true → i.rowAccepts (encode i) = true

theorem rx_row (b : Byte) : (eventWord 0b010 b &&& 0x700#11 == 0x200#11) = true := by
  rw [eventWord_masked]; decide

theorem wireAddr (d : Dir) : Statement (.wireAddr d) := fun _ => by cases d <;> decide
theorem wireOther (b : Byte) : Statement (.wireOther b) := fun h => by
  simpa [Instr.wellFormed, isSlaveAddrByte, Instr.rowAccepts, encode] using h
theorem addrMatchW : Statement .addrMatchW := fun _ => by decide
theorem addrMatchR : Statement .addrMatchR := fun _ => by decide
theorem rxAddrLo (b : Byte) : Statement (.rxAddrLo b) := fun _ => rx_row b
theorem rxAddrHi (b : Byte) : Statement (.rxAddrHi b) := fun _ => rx_row b
theorem rxDataN (b : Byte) : Statement (.rxDataN b) := fun _ => rx_row b
theorem rxAddrC (b : Byte) : Statement (.rxAddrC b) := fun _ => rx_row b
theorem rxPage (b : Byte) : Statement (.rxPage b) := fun _ => rx_row b
theorem rxDataC (b : Byte) : Statement (.rxDataC b) := fun _ => rx_row b
theorem rxInvalid (b : Byte) : Statement (.rxInvalid b) := fun _ => rx_row b
theorem txReq : Statement .txReq := fun _ => by decide
theorem stop : Statement .stop := fun _ => by decide
theorem nack : Statement .nack := fun _ => by decide
theorem encG0 : Statement .encG0 := fun _ => by decide
theorem encG1 : Statement .encG1 := fun _ => by decide
theorem encG2 : Statement .encG2 := fun _ => by decide
theorem encG3 : Statement .encG3 := fun _ => by decide
theorem encRst : Statement .encRst := fun _ => by decide
theorem reserved : Statement .reserved := fun _ => by decide

end Sys2Proof.Laws.MatchesTable
end

