-- ==== Sys2Proof/Tests/Slice0.lean ====
section
/-! SUPPORT. Tests against the worked vectors of spec/95_test_vectors.md (each theorem names its vector), the smoke
tests of the well-formedness checks, and a witness for the hypotheses of every statement that has any. -/

namespace Sys2Proof.Tests

open Sys2Proof Sys2Proof.Machine

/-! ### Small states -/

/-- Two LEDs, `CAP = 6`, the size of most vectors. -/
def cfg6 : Config := { Config.default with nLeds := 2 }

/-- One LED, `CAP = 3`, a gap of one byte. -/
def cfg3 : Config := { Config.default with nLeds := 1, resetBytes := 1 }

/-- A compatible build of `n` LEDs. -/
def compatCfg (n : Nat) : Config := { Config.default with nLeds := n, mode := .compat }

/-- A native session, `CAP = 6`. -/
def nat6 (ptr : Half) (phase : Phase) (buf : Memory) : State :=
  { State.resetOf cfg6 with ptr := ptr, phase := phase, buf := buf }

/-- A compatible session of configuration `c`. -/
def compat (c : Config) (ptr : Half) (phase : Phase) (page : Byte) (buf : Memory) : State :=
  { State.resetOf c with ptr := ptr, phase := phase, page := page, buf := buf }

/-- An encoder cursor over a buffer. -/
def enc (c : Config) (est : EncState) (idx : Half) (cnt : Nat) (buf : Memory) : State :=
  { State.resetOf c with est := est, idx := idx, cnt := cnt, buf := buf }

/-- The state an outcome goes on with. -/
def after : Result → Option State
  | .next s => some s
  | .fault _ => none
  | .refused _ => none

/-- The refusal an outcome stops with. -/
def refusalOf : Result → Option Refusal
  | .next _ => none
  | .fault _ => none
  | .refused r => some r

/-- The state after one step on one pending input. -/
def afterInput (s : State) (w : Input) : Option State := after (step (s.setInputs [w]))

/-- The state after one step on one event word. -/
def afterEvent (s : State) (e : EventWord) : Option State := afterInput s (.event e)

/-! ### Well-formedness refuses ill-formed terms -/

theorem test_wellFormed_refuses_own_write_address : (Instr.wireOther 0xE8).wellFormed = false := by decide
theorem test_wellFormed_refuses_own_read_address : (Instr.wireOther 0xE9).wellFormed = false := by decide
theorem test_wellFormed_admits_neighbours :
    (Instr.wireOther 0xE7).wellFormed = true ∧ (Instr.wireOther 0xEA).wellFormed = true := by decide

/-- R70: each received byte has one role; the others are refused in that context. -/
theorem test_admittedIn_refuses_other_roles :
    let c : Context := { mode := .native, phase := .addr, est := .g0 }
    (Instr.rxAddrLo 1).admittedIn c = true ∧ (Instr.rxAddrHi 1).admittedIn c = false ∧
    (Instr.rxDataN 1).admittedIn c = false ∧ (Instr.rxAddrC 1).admittedIn c = false ∧
    (Instr.rxPage 1).admittedIn c = false ∧ (Instr.rxDataC 1).admittedIn c = false ∧
    (Instr.rxInvalid 1).admittedIn c = false := by decide

theorem test_admittedIn_refuses_other_compat_roles :
    let c : Context := { mode := .compat, phase := .page, est := .g0 }
    (Instr.rxPage 1).admittedIn c = true ∧ (Instr.rxAddrLo 1).admittedIn c = false ∧
    (Instr.rxInvalid 1).admittedIn c = false := by decide

/-- R81 to R85: a tick has the role of the encoder state only. -/
theorem test_admittedIn_refuses_other_ticks :
    let c : Context := { mode := .native, phase := .addr, est := .g2 }
    Instr.encG2.admittedIn c = true ∧ Instr.encG0.admittedIn c = false ∧ Instr.encG1.admittedIn c = false ∧
    Instr.encG3.admittedIn c = false ∧ Instr.encRst.admittedIn c = false := by decide

/-! ### Decoding words written out from the spec -/

/-- R62: `1110100 0` is the write address byte, `1110100 1` the read one. -/
theorem test_decode_wireAddr :
    decodeTableWord 8 0b11101000 = some (.wireAddr .w) ∧ decodeTableWord 8 0b11101001 = some (.wireAddr .r) := by
  decide

/-- R63: another address. -/
theorem test_decode_wireOther :
    decodeTableWord 8 0b11101010 = some (.wireOther 0xEA) ∧ decodeTableWord 8 0b01110100 = some (.wireOther 0x74) := by
  decide

/-- W1, W2 and R67: code in bits 10..8; the data field is ignored. -/
theorem test_decode_events_without_data :
    decodeTableWord 11 0b000_00000000 = some .addrMatchW ∧ decodeTableWord 11 0b000_11111111 = some .addrMatchW ∧
    decodeTableWord 11 0b001_00000000 = some .addrMatchR ∧ decodeTableWord 11 0b011_11111111 = some .txReq ∧
    decodeTableWord 11 0b100_00000000 = some .stop ∧ decodeTableWord 11 0b101_00000000 = some .nack ∧
    decodeTableWord 16 0b101_00000000 = some .nack := by decide

/-- W6, W7. -/
theorem test_decode_reserved :
    decodeTableWord 11 0b111_00000000 = some .reserved ∧ decodeTableWord 11 0b111_11111111 = some .reserved := by
  decide

/-- W3 and the table of R70. -/
theorem test_decode_rx_native :
    let w : Input := .event 0b010_10100101
    let c (p : Phase) : Context := { mode := .native, phase := p, est := .g0 }
    decode (c .addr) w = .rxAddrLo 0xA5 ∧ decode (c .addrHi) w = .rxAddrHi 0xA5 ∧
    decode (c .data) w = .rxDataN 0xA5 ∧ decode (c .page) w = .rxInvalid 0xA5 := by decide

theorem test_decode_rx_compat :
    let w : Input := .event 0b010_10100101
    let c (p : Phase) : Context := { mode := .compat, phase := p, est := .g0 }
    decode (c .addr) w = .rxAddrC 0xA5 ∧ decode (c .page) w = .rxPage 0xA5 ∧
    decode (c .data) w = .rxDataC 0xA5 ∧ decode (c .addrHi) w = .rxInvalid 0xA5 := by decide

/-- W5 and R67: a tick is handled by the rule of the encoder state. -/
theorem test_decode_tick :
    let w : Input := .event 0b110_00000000
    let c (e : EncState) : Context := { mode := .native, phase := .addr, est := e }
    decode (c .g0) w = .encG0 ∧ decode (c .g1) w = .encG1 ∧ decode (c .g2) w = .encG2 ∧
    decode (c .g3) w = .encG3 ∧ decode (c .rst) w = .encRst := by decide

/-- R62 and R67: no other width, and no bit outside a format. -/
theorem test_decode_rejects_by_name :
    inputOfBits 8 256 = .error (.tooWide 8 256) ∧ inputOfBits 11 2048 = .error (.tooWide 11 2048) ∧
    inputOfBits 12 0 = .error (.badWidth 12) := ⟨rfl, rfl, rfl⟩

/-- R28: the 2-bit codes of the phases. -/
theorem test_phase_bits : (Phase.addr.bits, Phase.addrHi.bits, Phase.page.bits, Phase.data.bits) =
    (0b00#2, 0b01#2, 0b10#2, 0b11#2) := by decide

/-! ### The bus controller -/

theorem test_step_wireAddr :
    afterInput State.reset (.wire 0xE8) = some { State.reset with inputs := [.event 0x000] } ∧
    afterInput State.reset (.wire 0xE9) = some { State.reset with inputs := [.event 0x100] } := by decide

theorem test_step_wireOther : afterInput State.reset (.wire 0xEA) = some State.reset := by decide

/-! ### NATIVE, CAP = 6 -/

/-- N1, N15. -/
theorem test_addrMatchW :
    afterEvent (nat6 0x1234 .data []) 0x000 = some (nat6 0x0000 .addr []) ∧
    afterEvent (nat6 0x0034 .addrHi []) 0x000 = some (nat6 0x0000 .addr []) := by decide

/-- N11. -/
theorem test_addrMatchR_clear : afterEvent (nat6 0x0005 .data []) 0x100 = some (nat6 0x0000 .addr []) := by decide

/-- N12. -/
theorem test_addrMatchR_keep :
    let keep (s : State) : State := { s with cfg := { s.cfg with ptrOnReadMatch := .keep } }
    afterEvent (keep (nat6 0x0005 .data [])) 0x100 = some (keep (nat6 0x0005 .addr [])) := by decide

/-- N2. -/
theorem test_rxAddrLo : afterEvent (nat6 0x0000 .addr []) 0x234 = some (nat6 0x0034 .addrHi []) := by decide

/-- N3. -/
theorem test_rxAddrHi : afterEvent (nat6 0x0034 .addrHi []) 0x212 = some (nat6 0x1234 .data []) := by decide

/-- N4, N5. -/
theorem test_rxDataN_stores :
    afterEvent (nat6 0x0002 .data []) 0x2C3 = some (nat6 0x0003 .data [(2, 0xC3)]) ∧
    afterEvent (nat6 0x0005 .data [(0, 0x11)]) 0x2AA = some (nat6 0x0006 .data [(0, 0x11), (5, 0xAA)]) := by decide

/-- N6, N7. -/
theorem test_rxDataN_drops :
    afterEvent (nat6 0x0006 .data []) 0x2BB = some (nat6 0x0006 .data []) ∧
    afterEvent (nat6 0x1234 .data []) 0x255 = some (nat6 0x1234 .data []) := by decide

/-- N8, N9. -/
theorem test_txReq_in_bounds :
    afterEvent (nat6 0x0000 .addr [(0, 0x11)]) 0x300 =
      some { nat6 0x0001 .addr [(0, 0x11)] with replies := [0x11] } ∧
    afterEvent (nat6 0x0005 .data [(5, 0xAA)]) 0x300 =
      some { nat6 0x0006 .data [(5, 0xAA)] with replies := [0xAA] } := by decide

/-- N10. -/
theorem test_txReq_out_of_bounds :
    afterEvent (nat6 0x0006 .data [(5, 0xAA)]) 0x300 =
      some { nat6 0x0006 .data [(5, 0xAA)] with replies := [0x00] } := by decide

/-- N13. -/
theorem test_stop : afterEvent (nat6 0x0034 .addrHi []) 0x400 = some (nat6 0x0034 .addrHi []) := by decide

/-- N14. -/
theorem test_nack : afterEvent (nat6 0x0003 .addr []) 0x500 = some (nat6 0x0003 .addr []) := by decide

/-- W6 and the impossible pairs of R70. -/
theorem test_refusals :
    refusalOf (step ((nat6 0 .data []).setInputs [.event 0x700])) = some .reservedEvent ∧
    refusalOf (step ((nat6 0 .page []).setInputs [.event 0x255])) = some .impossibleRole ∧
    refusalOf (step ((compat (compatCfg 2) 0 .addrHi 0 []).setInputs [.event 0x255])) = some .impossibleRole := by
  decide

/-! ### COMPAT -/

/-- M1. -/
theorem test_remap : [0, 1, 2, 3, 4, 5, 6, 7, 8, 215, 216, 217, 218, 219, 220].map remap =
    [1, 0, 2, 4, 3, 5, 7, 6, 8, 215, 217, 216, 218, 220, 219] := by decide

/-- M2, M3. -/
theorem test_rxDataC_stores :
    afterEvent (compat (compatCfg 2) 0x24 .data 0 []) 0x210 = some (compat (compatCfg 2) 0x25 .data 0 [(1, 0x10)]) ∧
    afterEvent (compat (compatCfg 2) 0x25 .data 0 [(1, 0x10)]) 0x220 =
      some (compat (compatCfg 2) 0x26 .data 0 [(0, 0x20), (1, 0x10)]) ∧
    afterEvent (compat (compatCfg 72) 0xFB .data 0 []) 0x25E =
      some (compat (compatCfg 72) 0xFC .data 0 [(215, 0x5E)]) := by decide

/-- M5 (below the base), M6 (past the end), M8 (page), M9. -/
theorem test_rxDataC_drops :
    afterEvent (compat (compatCfg 2) 0x23 .data 0 []) 0x299 = some (compat (compatCfg 2) 0x24 .data 0 []) ∧
    afterEvent (compat (compatCfg 2) 0x2A .data 0 []) 0x270 = some (compat (compatCfg 2) 0x2B .data 0 []) ∧
    afterEvent (compat (compatCfg 2) 0x24 .data 1 []) 0x210 = some (compat (compatCfg 2) 0x25 .data 1 []) ∧
    afterEvent (compat (compatCfg 72) 0xFC .data 0 []) 0x211 = some (compat (compatCfg 72) 0xFD .data 0 []) := by
  decide

/-- The first steps of M10 and M11: the pointer wraps at 16 bits, or at 8. -/
theorem test_rxDataC_wraps :
    let narrow : Config := { compatCfg 128 with ptrBitsCompat := .bits8 }
    afterEvent (compat (compatCfg 128) 0xFF .data 0 []) 0x2A1 =
      some (compat (compatCfg 128) 0x100 .data 0 [(220, 0xA1)]) ∧
    afterEvent (compat narrow 0xFF .data 0 []) 0x2A1 = some (compat narrow 0x00 .data 0 [(220, 0xA1)]) := by decide

/-- M13, M14. -/
theorem test_rxAddrC :
    afterEvent (compat (compatCfg 2) 0 .addr 0 []) 0x224 = some (compat (compatCfg 2) 0x24 .data 0 []) ∧
    afterEvent (compat (compatCfg 2) 0 .addr 0 []) 0x2FD = some (compat (compatCfg 2) 0xFD .page 0 []) := by decide

/-- M15. -/
theorem test_rxPage :
    afterEvent (compat (compatCfg 2) 0xFD .page 0 []) 0x201 = some (compat (compatCfg 2) 0xFE .data 1 []) := by decide

/-- M16, M17. -/
theorem test_addrMatchW_page :
    let trans : Config := { compatCfg 2 with pageScope := .transaction }
    afterEvent (compat (compatCfg 2) 0xFE .data 1 []) 0x000 = some (compat (compatCfg 2) 0 .addr 1 []) ∧
    afterEvent (compat trans 0xFE .data 1 []) 0x000 = some (compat trans 0 .addr 0 []) := by decide

/-! ### The encoder -/

/-- E1 to E8. -/
theorem test_encodeByte : [0x00, 0xFF, 0xA5, 0x1B, 0x5A, 0x80, 0x01, 0xC3].map (encodeByte Lut.default) =
    [[0x88, 0x88, 0x88, 0x88], [0xEE, 0xEE, 0xEE, 0xEE], [0xE8, 0xE8, 0x8E, 0x8E], [0x88, 0x8E, 0xE8, 0xEE],
     [0x8E, 0x8E, 0xE8, 0xE8], [0xE8, 0x88, 0x88, 0x88], [0x88, 0x88, 0x88, 0x8E], [0xEE, 0x88, 0x88, 0xEE]] := by
  decide

/-- T1. -/
theorem test_encG0 : afterEvent (enc cfg6 .g0 0 0 [(0, 0xA5)]) 0x600 =
    some { enc cfg6 .g1 0 0 [(0, 0xA5)] with emitted := [0xE8] } := by decide

/-- The latch of R81, with `LATCHED`. -/
theorem test_encG0_latches :
    let c : Config := { cfg6 with encFetch := .latched }
    afterEvent (enc c .g0 0 0 [(0, 0xA5)]) 0x600 =
      some { enc c .g1 0 0 [(0, 0xA5)] with emitted := [0xE8], cur := 0xA5 } := by decide

/-- T2; and the `G1` step of F1 and F2: the buffer read afresh, or the latch. -/
theorem test_encG1 :
    let c : Config := { cfg6 with encFetch := .latched }
    afterEvent (enc cfg6 .g1 0 0 [(0, 0xA5)]) 0x600 =
      some { enc cfg6 .g2 0 0 [(0, 0xA5)] with emitted := [0xE8] } ∧
    afterEvent (enc cfg6 .g1 0 0 [(0, 0xFF)]) 0x600 =
      some { enc cfg6 .g2 0 0 [(0, 0xFF)] with emitted := [0xEE] } ∧
    afterEvent (enc c .g1 0 0 [(0, 0xFF)]) 0x600 =
      some { enc c .g2 0 0 [(0, 0xFF)] with emitted := [0x88] } := by decide

/-- T3. -/
theorem test_encG2 : afterEvent (enc cfg6 .g2 0 0 [(0, 0xA5)]) 0x600 =
    some { enc cfg6 .g3 0 0 [(0, 0xA5)] with emitted := [0x8E] } := by decide

/-- T4. -/
theorem test_encG3_next_byte : afterEvent (enc cfg6 .g3 0 0 [(0, 0xA5)]) 0x600 =
    some { enc cfg6 .g0 1 0 [(0, 0xA5)] with emitted := [0x8E] } := by decide

/-- T5, T8. -/
theorem test_encG3_last_byte :
    afterEvent (enc cfg6 .g3 5 0 [(5, 0x01)]) 0x600 =
      some { enc cfg6 .rst 0 24 [(5, 0x01)] with emitted := [0x8E] } ∧
    afterEvent (enc cfg3 .g3 2 0 []) 0x600 = some { enc cfg3 .rst 0 1 [] with emitted := [0x88] } := by decide

/-- T6. -/
theorem test_encRst_counts : afterEvent (enc cfg6 .rst 0 24 []) 0x600 =
    some { enc cfg6 .rst 0 23 [] with emitted := [0x00] } := by decide

/-- T7, T9. -/
theorem test_encRst_ends :
    afterEvent (enc cfg6 .rst 0 1 []) 0x600 = some { enc cfg6 .g0 0 0 [] with emitted := [0x00] } ∧
    afterEvent (enc cfg3 .rst 0 1 []) 0x600 = some { enc cfg3 .g0 0 0 [] with emitted := [0x00] } := by decide

/-- R73: the default table has the two-symbol structure; a table with a symbol that starts low has not. -/
theorem test_lut_structured :
    Lut.default.structured = true ∧ ({ e0 := 0x00, e1 := 0x0E, e2 := 0xE0, e3 := 0xEE } : Lut).structured = false := by
  decide

/-- R77, R78: `WR16 4, 44 55` of program P2, as event words. -/
theorem test_events_of_wr16 : eventsOf (wr16 4 [0x44, 0x55]) =
    [.event 0x000, .event 0x204, .event 0x200, .event 0x244, .event 0x255, .event 0x400] := by decide

/-- R78: `RD 3` of program P1. -/
theorem test_events_of_rd : eventsOf (rdFrom 3) =
    [.event 0x100, .event 0x300, .event 0x300, .event 0x300, .event 0x500, .event 0x400] := by decide

/-- R78: the read of program P2 and the page select of program P3. -/
theorem test_events_of_rd16_and_pagesel :
    eventsOf (rd16 4 1) = [.event 0x000, .event 0x204, .event 0x200, .event 0x100, .event 0x300, .event 0x500,
      .event 0x400] ∧
    eventsOf (pagesel (compatCfg 2) 0x01) = [.event 0x000, .event 0x2FD, .event 0x201, .event 0x400] := by decide

/-! ### From reset -/

/-- R131: the state after reset runs a table word as its first input. -/
theorem test_reset_runs_fetch_word :
    after (step (State.reset.withFetchWord 11 0x234)) = some { State.reset with ptr := 0x0034, phase := .addrHi } := by
  decide

/-- T10 for the model's own build: the gap counts down from `RESET_BYTES`. -/
theorem test_reset_first_tick :
    afterEvent State.reset 0x600 = some { State.reset with cnt := 23, emitted := [0x00] } := by decide

/-- The memory keeps its canonical form: writing `0x00` takes the entry away. -/
theorem test_memory_canonical :
    Memory.write [(0, 0x11), (2, 0x22)] 1 0x33 = [(0, 0x11), (1, 0x33), (2, 0x22)] ∧
    Memory.write [(0, 0x11), (2, 0x22)] 2 0x00 = [(0, 0x11)] ∧
    Memory.wf [(2, 0x22), (0, 0x11)] = false ∧ Memory.wf [(2, 0x00)] = false := by decide

/-! ### Witnesses: states that meet the hypotheses of the statements -/

/-- An invariant state with a data byte pending at the last offset, and its next state. -/
def lastByte : State := { nat6 5 .data [(0, 0x11)] with inputs := [.event 0x2AA] }

/-- A compatible invariant state inside a data phase. -/
def compatData : State := compat (compatCfg 2) 0x24 .data 0 [(0, 0x11)]

theorem lastByte_inv : lastByte.Inv := by constructor <;> decide
theorem compatData_inv : compatData.Inv := by constructor <;> decide

theorem witness_ResetStateOfEveryBuild : State.reset = State.resetOf Config.default := rfl

theorem witness_ResetMeetsInvariant : Config.default.inDomain = true ∧ (compatCfg 21845).inDomain = true := by decide

theorem witness_StepKeepsInvariant : lastByte.Inv ∧
    after (step lastByte) = some (nat6 6 .data [(0, 0x11), (5, 0xAA)]) ∧ (nat6 6 .data [(0, 0x11), (5, 0xAA)]).Inv :=
  ⟨lastByte_inv, by decide, by constructor <;> decide⟩

theorem witness_EveryPendingEventIsHandled : lastByte.Inv ∧ lastByte.inputs = [.event 0x2AA] ∧
    ∀ d : Byte, Input.event 0x2AA ≠ .event (eventWord 0b111 d) := ⟨lastByte_inv, rfl, by decide⟩

theorem witness_DecodeOfEncodeIsIdentity :
    (Instr.rxDataC 0xFF).wellFormed = true ∧
      (Instr.rxDataC 0xFF).admittedIn { mode := .compat, phase := .data, est := .g3 } = true ∧
    (Instr.wireOther 0xEA).wellFormed = true ∧
      (Instr.wireOther 0xEA).admittedIn { mode := .native, phase := .addr, est := .g0 } = true := by decide

theorem witness_StepRunsDecodedInput :
    lastByte.cfg.inDomain = true ∧ lastByte.inputs = [.event 0x2AA] := by decide

theorem witness_StepWithNothingPending :
    State.reset.cfg.inDomain = true ∧ State.reset.inputs = [] := by decide

/-- One state for each clause, at the value next to the domain; and the last builds inside it. -/
theorem witness_ConfigOutsideDomainRefused :
    (State.resetOf (compatCfg 0)).cfg.nLeds = 0 ∧ 65535 < 3 * (State.resetOf (compatCfg 21846)).cfg.nLeds ∧
    (State.resetOf { Config.default with resetBytes := 0 }).cfg.resetBytes = 0 ∧
    (compatCfg 1).inDomain = true ∧ (compatCfg 21845).inDomain = true ∧ cfg3.inDomain = true := by decide

theorem witness_ReservedEventRefused :
    let s : State := State.reset.setInputs [.event (eventWord 0b111 0xFF)]
    s.cfg.inDomain = true ∧ s.inputs = [.event (eventWord 0b111 0xFF)] := by decide

theorem witness_WireAddrRaisesAddressMatch :
    (State.reset.setInputs [.wire 0xE8]).cfg.inDomain = true ∧
    (State.reset.setInputs [.wire 0xE8]).inputs = [.wire 0xE8] ∧
    (State.reset.setInputs [.wire 0xE9]).inputs = [.wire 0xE9] := by decide

theorem witness_WireOtherRaisesNothing : (0xE7 : Byte) ≠ 0xE8 ∧ (0xE7 : Byte) ≠ 0xE9 ∧
    (0xEA : Byte) ≠ 0xE8 ∧ (0xEA : Byte) ≠ 0xE9 := by decide

theorem witness_OtherAddressReachesNothing : (0xEA : Byte) ≠ 0xE8 ∧ (0xEA : Byte) ≠ 0xE9 ∧
    ∀ t ∈ [Token.send 0x11, .rd, .rdLast, .prefetch, .stop], (∀ a, t ≠ .start a) ∧ (∀ k, t ≠ .tick k) := by
  simp

/-- In bounds at the last offset, out of bounds at the next. -/
theorem witness_RxDataNStoresInBounds :
    (nat6 5 .data []).ptr.toNat < (nat6 5 .data []).cap ∧ ¬ (nat6 6 .data []).ptr.toNat < (nat6 6 .data []).cap := by
  decide

theorem witness_TxReqRepliesByteAtPointer :
    (nat6 5 .addr []).ptr.toNat < (nat6 5 .addr []).cap ∧ ¬ (nat6 6 .addr []).ptr.toNat < (nat6 6 .addr []).cap := by
  decide

/-- One witness for each clause, at the pointer that wraps, or at the last one in bounds. -/
theorem witness_PointerIncrementWraps :
    let c8 : Config := { compatCfg 2 with ptrBitsCompat := .bits8 }
    (cfg6.mode = .native ∧ (inc cfg6 0xFFFF).toNat = 0) ∧
    (c8.mode = .compat ∧ c8.ptrBitsCompat = .bits8 ∧ (inc c8 0x00FF).toNat = 0) ∧
    ((compatCfg 2).mode = .compat ∧ (compatCfg 2).ptrBitsCompat = .bits16 ∧
      (inc (compatCfg 2) 0x00FF).toNat = 256) ∧
    (cfg6.mode = .native ∧ cfg6.inDomain = true ∧ (5#16).toNat < cfg6.cap) := by decide

/-- The page is cleared by a match, or kept, for each scope and for `NATIVE`. -/
theorem witness_AddrMatchWStartsWrite :
    let trans : Config := { compatCfg 2 with pageScope := .transaction }
    (trans.mode = .compat ∧ trans.pageScope = .transaction) ∧
    ¬ ((compatCfg 2).mode = .compat ∧ (compatCfg 2).pageScope = .transaction) ∧
    ¬ (cfg6.mode = .compat ∧ cfg6.pageScope = .transaction) := by decide

theorem witness_AddrMatchRStartsRead :
    cfg6.ptrOnReadMatch = .clear ∧ ({ cfg6 with ptrOnReadMatch := .keep } : Config).ptrOnReadMatch ≠ .clear := by
  decide

theorem witness_RxAddrCSetsLegacyAddress :
    (0xFD : Byte) = (compatCfg 2).pageSel ∧ (0xFC : Byte) ≠ (compatCfg 2).pageSel := by decide

/-- Stored at `COLOR_BASE` and at the last legacy address, dropped on each side and under a page. -/
theorem witness_RxDataCStoresTranslated :
    compatTarget (compat (compatCfg 2) 0x24 .data 0 []) = some 1 ∧
    compatTarget (compat (compatCfg 2) 0x29 .data 0 []) = some 5 ∧
    compatTarget (compat (compatCfg 2) 0x23 .data 0 []) = none ∧
    compatTarget (compat (compatCfg 2) 0x2A .data 0 []) = none ∧
    compatTarget (compat (compatCfg 2) 0x24 .data 1 []) = none := by decide

theorem witness_RemapPermutesPixels :
    compatData.page = 0x00 ∧ compatData.cfg.colorBase.toNat ≤ compatData.ptr.toNat ∧
    compatData.ptr.toNat < compatData.cfg.colorBase.toNat + compatData.cap := by decide

/-- Both sides of the equivalence, at the last legacy address of eight bits. -/
theorem witness_CompatReachableOffsets :
    let s : State := compat (compatCfg 128) 0xFF .data 0 []
    s.page = 0x00 ∧ s.ptr.toNat < 256 ∧ compatTarget s = some 220 ∧
    219 < min s.cfg.cap (256 - s.cfg.colorBase.toNat) ∧ 220 = remap 219 := by decide

theorem witness_RxAddrHiSetsHighByte :
    (nat6 0x0034 .addrHi []).cfg.mode = .native ∧ (nat6 0x0034 .addrHi []).phase = .addrHi := by decide

theorem witness_EncG0EmitsGroup0 :
    (enc cfg6 .g0 5 0 []).est = .g0 ∧ (enc cfg6 .g0 5 0 []).idx.toNat < (enc cfg6 .g0 5 0 []).cap ∧
    cfg6.encFetch ≠ .latched ∧ ({ cfg6 with encFetch := .latched } : Config).encFetch = .latched := by decide

theorem witness_EncG1AndG2EmitTheirGroups :
    let s : State := enc cfg6 .g1 5 0 [(5, 0xA5)]
    let l : State := { enc { cfg6 with encFetch := .latched } .g1 5 0 [] with cur := 0xA5 }
    (s.est = .g1 ∧ ({ s with est := .g2 } : State).est = .g2) ∧
    (s.idx.toNat < s.cap ∧ 0xA5 = (if s.cfg.encFetch = .perGroup then s.buf.read s.idx.toNat else s.cur)) ∧
    (l.idx.toNat < l.cap ∧ 0xA5 = (if l.cfg.encFetch = .perGroup then l.buf.read l.idx.toNat else l.cur)) := by
  decide

/-- The last byte but one goes on, the last byte ends the pass. -/
theorem witness_EncG3EmitsAndAdvances :
    let s : State := enc cfg6 .g3 4 0 [(4, 0xA5)]
    let l : State := { enc { cfg6 with encFetch := .latched } .g3 5 0 [] with cur := 0xA5 }
    (s.est = .g3 ∧ s.idx.toNat < s.cap ∧ s.idx.toNat + 1 < s.cap ∧
      0xA5 = (if s.cfg.encFetch = .perGroup then s.buf.read s.idx.toNat else s.cur)) ∧
    (l.idx.toNat < l.cap ∧ ¬ l.idx.toNat + 1 < l.cap ∧
      0xA5 = (if l.cfg.encFetch = .perGroup then l.buf.read l.idx.toNat else l.cur)) := by decide

/-- The first and the last tick of a gap. -/
theorem witness_EncRstEmitsZero :
    let s : State := enc cfg6 .rst 0 24 []
    let l : State := enc cfg6 .rst 0 1 []
    (s.idx.toNat < s.cap ∧ 1 ≤ s.cnt ∧ s.cnt ≤ s.cfg.resetBytes ∧ s.cnt ≠ 1) ∧
    (l.idx.toNat < l.cap ∧ 1 ≤ l.cnt ∧ l.cnt ≤ l.cfg.resetBytes ∧ l.cnt = 1) := by decide

theorem witness_BrokenCursorRefused :
    ((enc cfg6 .g0 6 0 []).cap ≤ (enc cfg6 .g0 6 0 []).idx.toNat ∧ Instr.encG0.agent = some .enc) ∧
    (enc cfg6 .rst 0 0 []).cnt = 0 ∧ (enc cfg6 .rst 0 25 []).cfg.resetBytes < (enc cfg6 .rst 0 25 []).cnt := by decide

theorem witness_FourTicksEmitFourGroups :
    let s : State := enc cfg6 .g0 5 0 [(5, 0xA5)]
    s.cfg.inDomain = true ∧ s.idx.toNat < s.cap ∧ s.est = .g0 ∧ 0xA5 = s.buf.read s.idx.toNat := by decide

theorem witness_ScanPeriodEmitsBufferThenGap :
    let s : State := enc cfg3 .g0 0 0 [(2, 0xA5)]
    s.Inv ∧ s.est = .g0 ∧ s.idx = 0 := ⟨by constructor <;> decide, rfl, rfl⟩

theorem witness_FirstTicksEmitTheGap : cfg3.inDomain = true ∧ Config.default.inDomain = true := by decide

theorem witness_LatchedTicksIgnoreBuffer :
    let s : State := enc { cfg6 with encFetch := .latched } .g1 5 0 []
    s.cfg.encFetch = .latched ∧ s.idx.toNat < s.cap := by decide

/-- Each instruction of the group completes. -/
theorem witness_NonStoringBusEventsFrame :
    ∀ i ∈ [Instr.addrMatchW, .addrMatchR, .txReq, .stop, .nack, .rxAddrLo 1, .rxAddrHi 1, .rxAddrC 1, .rxPage 1],
      (after (exec i compatData)).isSome = true := by decide

/-- A stored and a dropped byte, in either mode. -/
theorem witness_DataBytesFrame :
    (storeTarget (.rxDataN 0xAA) (nat6 5 .data []) = some 5 ∧
      (after (exec (.rxDataN 0xAA) (nat6 5 .data []))).isSome = true) ∧
    (storeTarget (.rxDataN 0xAA) (nat6 6 .data []) = none ∧
      (after (exec (.rxDataN 0xAA) (nat6 6 .data []))).isSome = true) ∧
    (storeTarget (.rxDataC 0xAA) compatData = some 1 ∧
      (after (exec (.rxDataC 0xAA) compatData)).isSome = true) ∧
    (storeTarget (.rxDataC 0xAA) { compatData with page := 1 } = none ∧
      (after (exec (.rxDataC 0xAA) { compatData with page := 1 })).isSome = true) := by decide

theorem witness_EncoderTicksFrame :
    ∀ i ∈ [Instr.encG0, .encG1, .encG2, .encG3, .encRst],
      i.agent = some .enc ∧ (after (exec i (enc cfg6 .rst 5 1 []))).isSome = true := by decide

theorem witness_OneAnswerPerRequest :
    (compatData.Inv ∧ Instr.encRst.agent = some .enc ∧ Instr.encRst.admittedIn compatData.ctx = true) ∧
    (after (exec .txReq compatData)).isSome = true ∧ (after (exec .stop compatData)).isSome = true ∧
    (Instr.encRst.agent = some .enc ∧ (after (exec .encRst compatData)).isSome = true) ∧
    (Instr.stop.agent ≠ some .enc) := ⟨⟨compatData_inv, by decide⟩, by decide⟩

/-- An instruction that does write each of the four. -/
theorem witness_WritersOfBusState :
    (after (exec (.rxDataC 0xAA) compatData)).any (fun t => t.buf != compatData.buf && t.ptr != compatData.ptr) =
      true ∧
    (after (exec .addrMatchW compatData)).any (fun t => t.phase != compatData.phase) = true ∧
    (after (exec (.rxPage 1) compatData)).any (fun t => t.page != compatData.page) = true := by decide

theorem witness_ConfigurationNeverWritten : (after (step lastByte)).isSome = true := by decide

/-- Two states that agree on the bus side and differ in the cursor. -/
theorem witness_BusEventsObliviousToCursor :
    let s' : State := { compatData with est := .g2, idx := 3, cnt := 0 }
    Instr.txReq.agent = some .bus ∧ (after (exec .txReq compatData)).isSome = true ∧
    s'.busView = compatData.busView ∧ s'.cursor ≠ compatData.cursor := by decide

/-- Two states that agree on the encoder side and differ on the bus side. -/
theorem witness_EncoderObliviousToBus :
    let s : State := enc cfg6 .g1 5 0 []
    let s' : State := { s with ptr := 3, phase := .data, replies := [0x11] }
    Instr.encG1.agent = some .enc ∧ (after (exec .encG1 s)).isSome = true ∧
    s'.encView = s.encView ∧ s'.ptr ≠ s.ptr ∧ s'.replies ≠ s.replies := ⟨rfl, by decide, rfl, by decide, by decide⟩

/-- A data byte stored beside the byte being encoded. -/
theorem witness_BusEventAndTickCommute :
    let s : State := { nat6 5 .data [] with est := .g0, idx := 4 }
    (Instr.rxDataN 0xAA).agent = some .bus ∧ Instr.encG0.agent = some .enc ∧
    storeTarget (.rxDataN 0xAA) s ≠ some s.idx.toNat ∧
    ((after (exec (.rxDataN 0xAA) s)).bind fun s₁ => after (exec .encG0 s₁)).isSome = true ∧
    ((after (exec .encG0 s)).bind fun s₁ => after (exec (.rxDataN 0xAA) s₁)).isSome = true := by decide

theorem witness_StoredByteIsSeenNext :
    (storeTarget (.rxDataN 0xAA) { nat6 5 .data [] with est := .g0, idx := 5 } = some 5 ∧ (5#16).toNat = 5) ∧
    (storeTarget (.rxDataC 0xAA) { compatData with est := .g0, idx := 1 } = some 1 ∧ (1#16).toNat = 1) := by decide

theorem witness_NoUnderrunByConstruction :
    (∀ w ∈ [Input.event 0x600], ∃ e, w = .event e) ∧
    (after (State.feed (enc cfg6 .g0 0 0 []) [.event 0x600])).isSome = true := ⟨by simp, by decide⟩

theorem witness_OutOfBoundsIsInert :
    let s : State := nat6 6 .data []
    let c : State := compat (compatCfg 2) 6 .addr 0 []
    (s.cfg.inDomain = true ∧ s.cfg.mode = .native ∧ s.phase = .data ∧ s.cap ≤ s.ptr.toNat) ∧
    (c.cfg.inDomain = true ∧ c.cap ≤ c.ptr.toNat) := by decide

/-- With a 16-bit pointer, and with an 8-bit one that reaches past the buffer. -/
theorem witness_ReadTransactionStartsAtZero :
    let s : State := nat6 5 .data [(0, 0x11)]
    let c : State := State.resetOf { compatCfg 85 with ptrBitsCompat := .bits8 }
    (s.Inv ∧ s.cfg.ptrOnReadMatch = .clear ∧ s.cap < 2 ^ s.cfg.ptrWidth) ∧
    (c.Inv ∧ c.cfg.ptrOnReadMatch = .clear ∧ c.cap < 2 ^ c.cfg.ptrWidth) :=
  ⟨⟨by constructor <;> decide, rfl, by decide⟩, ⟨by constructor <;> decide, rfl, by decide⟩⟩

/-- A pattern that fills the buffer, under each value of the parameter. -/
theorem witness_NativeRoundTrip :
    let s : State := nat6 5 .data []
    let k : State := State.resetOf { cfg6 with ptrOnReadMatch := .keep }
    (s.Inv ∧ s.cfg.mode = .native ∧ (List.replicate 6 (0xA5 : Byte)).length = s.cap ∧
      s.cfg.ptrOnReadMatch = .clear) ∧
    (k.Inv ∧ k.cfg.mode = .native ∧ [(0xA5 : Byte)].length ≤ k.cap ∧ k.cfg.ptrOnReadMatch = .keep) :=
  ⟨⟨by constructor <;> decide, rfl, by decide, rfl⟩, ⟨by constructor <;> decide, rfl, by decide, rfl⟩⟩

theorem witness_CompatPixelWrite : compatData.Inv ∧ compatData.cfg.mode = .compat ∧ compatData.page = 0x00 ∧
    compatData.cfg.colorBase ≠ compatData.cfg.pageSel ∧
    compatData.cfg.colorBase.toNat + 2 < 2 ^ compatData.cfg.ptrWidth :=
  ⟨compatData_inv, rfl, rfl, by decide, by decide⟩

theorem witness_NonZeroPageClosesPixels :
    let s : State := compat (compatCfg 2) 0x24 .data 1 []
    (s.Inv ∧ s.cfg.mode = .compat ∧ s.phase = .data ∧ s.page ≠ 0x00) ∧
    (s.cfg.pageScope = .persistent ∧ (0x01 : Byte) ≠ 0x00 ∧ (0x24 : Byte) ≠ s.cfg.pageSel) :=
  ⟨⟨by constructor <;> decide, rfl, rfl, by decide⟩, by decide⟩

theorem witness_LineShiftsMostSignificantFirst :
    (lineBits 0x80)[0]? = some true ∧ (lineBits 0x01)[7]? = some true ∧ (0 : Nat) < 8 ∧ (7 : Nat) < 8 := by decide

/-- The default table, for each clause; and a table for which the structure alone holds. -/
theorem witness_TableIsTwoSymbols :
    Lut.default.structured = true ∧ lutEncodesBits Lut.default = true ∧
    ({ e0 := 0xFF, e1 := 0xFF, e2 := 0xFF, e3 := 0xFF } : Lut).structured = true := by decide

/-- R73: 1/4 is about 1/3 and 3/4 about 2/3, for the default; a slot half high is neither, nor is one all high. -/
theorem test_lut_ratios :
    aboutThirds 1 0b1000 = true ∧ aboutThirds 2 0b1110 = true ∧ aboutThirds 1 0b1001 = false ∧
    aboutThirds 2 0b1100 = false ∧ aboutThirds 1 0b1111 = false ∧ aboutThirds 2 0b1111 = false ∧
    lutEncodesBits { e0 := 0xFF, e1 := 0xFF, e2 := 0xFF, e3 := 0xFF } = false ∧
    lutEncodesBits { e0 := 0x99, e1 := 0x99, e2 := 0x99, e3 := 0x99 } = false := by decide

/-- R142, the illustration: 24 reset bytes at 312.5 ns are 60 us, and hold the line for the latch time. -/
theorem test_gap_time : bitsToPs Config.default (gapBits Config.default) = 60000000 ∧
    Config.default.latchHold = true := by decide

/-- The table of numbers of the encodings: an input as the table numbers it. -/
theorem test_tableWord : (encode (.rxAddrLo 0xA5)).tableWord = (11, 0x2A5) ∧
    (encode (.wireAddr .r)).tableWord = (8, 0xE9) := by decide

end Sys2Proof.Tests
end

section
/-! SUPPORT. What an operation of each port writes, said once, and the proofs about who may write what
(spec/10_state.md). -/

namespace Sys2Proof.Machine

variable {i : Instr} {s t : State}

/-! ### The meanings and their effects are the same -/

theorem next_of_eq (h : t = s) : (Host.Outcome.next s : Result) = .next t := congrArg Host.Outcome.next h.symm

/-- An operation that has an effect answers it: with `exec_effect`, `Effect` is all that an operation can do. -/
theorem exec_of_effect (h : Effect i s t) : exec i s = .next t := by
  cases i with
  | rxDataN b =>
    change execRxDataN b s = .next t
    unfold execRxDataN
    obtain ⟨a, ha, rfl⟩ | ⟨hn, rfl⟩ := h
    · rw [ha]
      exact memWrite_of_lt (nativeTarget_lt ha) _
    · rw [hn]
      rfl
  | rxDataC b =>
    change execRxDataC b s = .next t
    unfold execRxDataC
    obtain ⟨a, ha, rfl⟩ | ⟨hn, rfl⟩ := h
    · rw [ha]
      exact memWrite_of_lt (compatTarget_lt ha) _
    · rw [hn]
  | txReq =>
    change execTxReq s = .next t
    obtain ⟨hp, rfl⟩ | ⟨hp, rfl⟩ := h
    · exact (execTxReq_of_lt (inBounds_iff.mpr hp)).trans (memRead_of_lt hp _)
    · exact execTxReq_of_ge fun hb => absurd (inBounds_iff.mp hb) (Nat.not_lt.mpr hp)
  | encG0 => exact guardIdx_memRead_next.mpr (h.imp id next_of_eq)
  | encG1 => exact guardIdx_fetchLater_next.mpr (h.imp id next_of_eq)
  | encG2 => exact guardIdx_fetchLater_next.mpr (h.imp id next_of_eq)
  | encG3 => exact guardIdx_fetchLater_next.mpr (h.imp id next_of_eq)
  | encRst => exact guardGap_next.mpr (h.imp id next_of_eq)
  | rxInvalid b => exact h.elim
  | reserved => exact h.elim
  | _ => exact next_of_eq h

theorem exec_next_iff : exec i s = .next t ↔ Effect i s t := ⟨exec_effect, exec_of_effect⟩

/-- A byte request is handled in every state (R95). -/
theorem txReq_answers (s : State) : ∃ t, exec .txReq s = .next t := by
  rcases Nat.lt_or_ge s.ptr.toNat s.cap with hp | hp
  · exact ⟨_, exec_of_effect (.inl ⟨hp, rfl⟩)⟩
  · exact ⟨_, exec_of_effect (.inr ⟨hp, rfl⟩)⟩

/-- A tick is handled in every state with the invariant: it is the part of R86 that the guards ask for. -/
theorem tick_answers (hs : s.Inv) (hi : i.agent = some .enc) (ha : i.admittedIn s.ctx = true) :
    ∃ t, exec i s = .next t := by
  cases i with
  | encG0 => exact ⟨_, exec_of_effect ⟨hs.idxBound, rfl⟩⟩
  | encG1 => exact ⟨_, exec_of_effect ⟨hs.idxBound, rfl⟩⟩
  | encG2 => exact ⟨_, exec_of_effect ⟨hs.idxBound, rfl⟩⟩
  | encG3 => exact ⟨_, exec_of_effect ⟨hs.idxBound, rfl⟩⟩
  | encRst =>
    have hest : s.est = .rst := eq_of_beq ha
    exact ⟨_, exec_of_effect ⟨⟨hs.idxBound, hs.gapCount hest, hs.cntBound⟩, rfl⟩⟩
  | _ => exact nomatch hi

/-! ### The fields an operation of each port can write -/

/-- What an address match does to the page writes nothing else (R107). -/
theorem matchPage_eq_setPage (s : State) : ∃ b, matchPage s = s.setPage b := by
  rcases matchPage_cases s with h | h
  · exact ⟨s.page, h⟩
  · exact ⟨0x00, h⟩

/-- What a read-direction address match does to the pointer writes nothing else (R91). -/
theorem matchReadPtr_eq_setPtr (s : State) : ∃ p, matchReadPtr s = s.setPtr p := by
  rcases matchReadPtr_cases s with h | h
  · exact ⟨s.ptr, h⟩
  · exact ⟨0x0000, h⟩

/-- Keeping the byte of a `G0` tick writes nothing but the latch (R80). -/
theorem latch_eq_setCur (s : State) (v : Byte) : ∃ c, latch s v = s.setCur c := by
  rcases latch_cases s v with ⟨-, h⟩ | ⟨-, h⟩
  · exact ⟨s.cur, h⟩
  · exact ⟨v, h⟩

/-- The advance after group 3 writes the cursor only (R84). -/
theorem advanceByte_eq_setCursor (s : State) :
    ∃ k n e, advanceByte s = ((s.setIdx k).setCnt n).setEst e := by
  rcases advanceByte_cases s with ⟨-, h⟩ | ⟨-, h⟩
  · exact ⟨s.idx + 1, s.cnt, .g0, h⟩
  · exact ⟨0, s.cfg.resetBytes, .rst, h⟩

/-- The countdown writes the cursor only (R85). -/
theorem countDown_eq_setCursor (s : State) :
    ∃ k n e, countDown s = ((s.setIdx k).setCnt n).setEst e := by
  rcases countDown_cases s with ⟨-, h⟩ | ⟨-, h⟩
  · exact ⟨s.idx, s.cnt - 1, s.est, h⟩
  · exact ⟨0, 0, .g0, h⟩

/-- What answers a next state is handled by an agent: the reserved code, which belongs to none, is refused (R69). -/
theorem exec_agent (h : exec i s = .next t) : ∃ a, i.agent = some a := by
  cases i with
  | reserved => exact nomatch h
  | _ => exact ⟨_, rfl⟩

/-- The bus controller's rows write what is pending only (R66). -/
theorem exec_controller_writes (hi : i.agent = some .controller) (h : exec i s = .next t) :
    ∃ l, t = s.setInputs l := by
  have he := exec_effect h
  cases i with
  | wireAddr d => exact ⟨_, he⟩
  | wireOther b => exact ⟨s.inputs, he⟩
  | _ => exact nomatch hi

/-- A byte request writes one reply and the pointer (R95). -/
theorem exec_txReq_writes (h : exec .txReq s = .next t) : ∃ b p, t = (s.pushReply b).setPtr p := by
  obtain ⟨-, ht⟩ | ⟨-, ht⟩ := exec_effect h
  · exact ⟨_, _, ht⟩
  · exact ⟨_, s.ptr, ht⟩

/-- Every other event of the bus port writes the buffer, the session and the page only (R24, R25, R29, R31). -/
theorem exec_bus_writes (hi : i.agent = some .bus) (hq : i ≠ .txReq) (h : exec i s = .next t) :
    ∃ m p f g, t = (((s.setBuf m).setPtr p).setPhase f).setPage g := by
  have he := exec_effect h
  cases i with
  | addrMatchW =>
    obtain ⟨g, hg⟩ := matchPage_eq_setPage ((s.setPhase .addr).setPtr 0x0000)
    exact ⟨s.buf, 0x0000, .addr, g, he.trans hg⟩
  | addrMatchR =>
    obtain ⟨p, hp⟩ := matchReadPtr_eq_setPtr (s.setPhase .addr)
    obtain ⟨g, hg⟩ := matchPage_eq_setPage ((s.setPhase .addr).setPtr p)
    exact ⟨s.buf, p, .addr, g, he.trans (hp ▸ hg)⟩
  | rxAddrLo b => exact ⟨s.buf, ptrOfByte b, .addrHi, s.page, he⟩
  | rxAddrHi b => exact ⟨s.buf, ptrOfHigh b s.ptr, .data, s.page, he⟩
  | rxDataN b =>
    obtain ⟨a, -, ht⟩ | ⟨-, ht⟩ := he
    · exact ⟨s.buf.write a b, s.ptr + 1, s.phase, s.page, ht⟩
    · exact ⟨s.buf, s.ptr, s.phase, s.page, ht⟩
  | rxAddrC b => exact ⟨s.buf, ptrOfByte b, if b = s.cfg.pageSel then .page else .data, s.page, he⟩
  | rxPage b => exact ⟨s.buf, inc s.cfg s.ptr, .data, b, he⟩
  | rxDataC b =>
    obtain ⟨a, -, ht⟩ | ⟨-, ht⟩ := he
    · exact ⟨s.buf.write a b, inc s.cfg s.ptr, s.phase, s.page, ht⟩
    · exact ⟨s.buf, inc s.cfg s.ptr, s.phase, s.page, ht⟩
  | rxInvalid b => exact he.elim
  | txReq => exact absurd rfl hq
  | stop => exact ⟨s.buf, s.ptr, s.phase, s.page, he⟩
  | nack => exact ⟨s.buf, s.ptr, s.phase, s.page, he⟩
  | _ => exact nomatch hi

/-- A tick writes one emitted byte and the cursor only (R37). -/
theorem exec_tick_writes (hi : i.agent = some .enc) (h : exec i s = .next t) :
    ∃ c b k n e, t = ((((s.setCur c).pushEmit b).setIdx k).setCnt n).setEst e := by
  have he := exec_effect h
  cases i with
  | encG0 =>
    obtain ⟨-, ht⟩ := he
    obtain ⟨c, hc⟩ := latch_eq_setCur s (s.buf.read s.idx.toNat)
    exact ⟨c, _, s.idx, s.cnt, .g1, hc ▸ ht⟩
  | encG1 => exact ⟨s.cur, _, s.idx, s.cnt, .g2, he.2⟩
  | encG2 => exact ⟨s.cur, _, s.idx, s.cnt, .g3, he.2⟩
  | encG3 =>
    obtain ⟨-, ht⟩ := he
    obtain ⟨k, n, e, hadv⟩ := advanceByte_eq_setCursor (s.pushEmit (s.cfg.lut.get (group3 (laterByte s))))
    exact ⟨s.cur, _, k, n, e, ht.trans hadv⟩
  | encRst =>
    obtain ⟨-, ht⟩ := he
    obtain ⟨k, n, e, hcnt⟩ := countDown_eq_setCursor (s.pushEmit 0x00)
    exact ⟨s.cur, _, k, n, e, ht.trans hcnt⟩
  | _ => exact nomatch hi

/-! ### Outputs (R40) -/

theorem exec_txReq_replies (h : exec .txReq s = .next t) :
    ∃ b, t.replies = s.replies ++ [b] ∧ t.emitted = s.emitted := by
  obtain ⟨b, p, rfl⟩ := exec_txReq_writes h
  exact ⟨b, rfl, rfl⟩

theorem exec_tick_emits (hi : i.agent = some .enc) (h : exec i s = .next t) :
    ∃ b, t.emitted = s.emitted ++ [b] ∧ t.replies = s.replies := by
  obtain ⟨c, b, k, n, e, rfl⟩ := exec_tick_writes hi h
  exact ⟨b, rfl, rfl⟩

/-- Only byte requests and ticks produce output. -/
theorem exec_other_silent (hq : i ≠ .txReq) (hi : i.agent ≠ some .enc) (h : exec i s = .next t) :
    t.replies = s.replies ∧ t.emitted = s.emitted := by
  obtain ⟨a, ha⟩ := exec_agent h
  cases a with
  | bus =>
    obtain ⟨m, p, f, g, rfl⟩ := exec_bus_writes ha hq h
    exact ⟨rfl, rfl⟩
  | enc => exact absurd ha hi
  | controller =>
    obtain ⟨l, rfl⟩ := exec_controller_writes ha h
    exact ⟨rfl, rfl⟩

/-- Settles O45: what each port writes gives the outputs, and the guards of a tick hold under the invariant. -/
theorem oneAnswerPerRequest : Obligations.OneAnswerPerRequest := by
  refine ⟨fun s => ?_, fun i s hs hi ha => ?_, fun i s t h => ⟨?_, fun hq => ?_, fun hi => ?_, fun hi => ?_⟩⟩
  · obtain ⟨t, h⟩ := txReq_answers s
    obtain ⟨b, hout⟩ := exec_txReq_replies h
    exact ⟨t, b, h, hout⟩
  · obtain ⟨t, h⟩ := tick_answers hs hi ha
    obtain ⟨b, hout⟩ := exec_tick_emits hi h
    exact ⟨t, b, h, hout⟩
  · rintro rfl
    exact (exec_txReq_replies h).imp fun _ => And.left
  · by_cases hi : i.agent = some .enc
    · obtain ⟨_, -, hr⟩ := exec_tick_emits hi h
      exact hr
    · exact (exec_other_silent hq hi h).1
  · exact (exec_tick_emits hi h).imp fun _ => And.left
  · by_cases hq : i = .txReq
    · subst hq
      obtain ⟨_, -, hm⟩ := exec_txReq_replies h
      exact hm
    · exact (exec_other_silent hq hi h).2

/-! ### The configuration (R38) -/

theorem exec_cfg (h : exec i s = .next t) : t.cfg = s.cfg := by
  obtain ⟨a, ha⟩ := exec_agent h
  cases a with
  | bus =>
    by_cases hq : i = .txReq
    · subst hq
      obtain ⟨b, p, rfl⟩ := exec_txReq_writes h
      rfl
    · obtain ⟨m, p, f, g, rfl⟩ := exec_bus_writes ha hq h
      rfl
  | enc =>
    obtain ⟨c, b, k, n, e, rfl⟩ := exec_tick_writes ha h
    rfl
  | controller =>
    obtain ⟨l, rfl⟩ := exec_controller_writes ha h
    rfl

theorem step_cfg (h : step s = .next t) : t.cfg = s.cfg := by
  obtain ⟨-, ⟨-, rfl⟩ | ⟨w, rest, -, hx⟩⟩ := step_cases h
  · rfl
  · exact (exec_cfg hx).trans (State.setInputs_cfg s rest)

/-- Settles O47: no operation writes the configuration, so no step does. -/
theorem configurationNeverWritten : Obligations.ConfigurationNeverWritten :=
  ⟨fun _ _ h => ⟨step_cfg h, congrArg Config.lut (step_cfg h)⟩, fun c => congrArg Config.lut (State.resetOf_cfg c)⟩

/-! ### The bus side does not depend on the cursor (R37) -/

/-- The bus side of `s` beside everything else of `r`: the cursor, the output stream and what is pending. -/
def State.beside (s r : State) : State :=
  { s with est := r.est, idx := r.idx, cnt := r.cnt, cur := r.cur, emitted := r.emitted, inputs := r.inputs }

@[simp] theorem State.busView_beside (s r : State) : (s.beside r).busView = s.busView := rfl

/-- Two states with the same bus side differ in the rest only. -/
theorem State.eq_beside_of_busView {r : State} (h : r.busView = s.busView) : r = s.beside r := by
  simp only [State.busView, Prod.mk.injEq] at h
  obtain ⟨hcfg, hbuf, hptr, hphase, hpage, hreplies⟩ := h
  simp only [State.beside, ← hcfg, ← hbuf, ← hptr, ← hphase, ← hpage, ← hreplies]

theorem matchPage_beside (s r : State) : matchPage (s.beside r) = (matchPage s).beside r := by
  have hcfg : (s.beside r).cfg = s.cfg := rfl
  unfold matchPage
  rw [hcfg]
  split <;> rfl

theorem matchReadPtr_beside (s r : State) : matchReadPtr (s.beside r) = (matchReadPtr s).beside r := by
  have hcfg : (s.beside r).cfg = s.cfg := rfl
  unfold matchReadPtr
  rw [hcfg]
  split <;> rfl

/-- A bus event does the same beside any cursor, output stream and pending inputs. -/
theorem exec_bus_beside (r : State) (hi : i.agent = some .bus) (h : exec i s = .next t) :
    exec i (s.beside r) = .next (t.beside r) := by
  rw [exec_next_iff] at h ⊢
  cases i with
  | addrMatchW =>
    subst h
    exact (matchPage_beside _ r).symm
  | addrMatchR =>
    subst h
    exact (matchPage_beside _ r).symm.trans (congrArg matchPage (matchReadPtr_beside (s.setPhase .addr) r).symm)
  | rxDataN b =>
    obtain ⟨a, ha, rfl⟩ | ⟨hn, rfl⟩ := h
    · exact .inl ⟨a, ha, rfl⟩
    · exact .inr ⟨hn, rfl⟩
  | rxDataC b =>
    obtain ⟨a, ha, rfl⟩ | ⟨hn, rfl⟩ := h
    · exact .inl ⟨a, ha, rfl⟩
    · exact .inr ⟨hn, rfl⟩
  | rxInvalid b => exact h.elim
  | txReq =>
    obtain ⟨hp, rfl⟩ | ⟨hp, rfl⟩ := h
    · exact .inl ⟨hp, rfl⟩
    · exact .inr ⟨hp, rfl⟩
  | rxAddrLo _ | rxAddrHi _ | rxAddrC _ | rxPage _ | stop | nack =>
    subst h
    rfl
  | _ => exact nomatch hi

/-- A bus event leaves the cursor as it is. -/
theorem exec_bus_cursor (hi : i.agent = some .bus) (h : exec i s = .next t) : t.cursor = s.cursor := by
  have ht : t = t.beside s := next_eq ((exec_bus_beside s hi h).symm.trans h)
  calc t.cursor = (t.beside s).cursor := congrArg State.cursor ht
    _ = s.cursor := rfl

/-- Settles O48: a bus event gives the same bus side beside any cursor, and keeps the cursor it finds. -/
theorem busEventsObliviousToCursor : Obligations.BusEventsObliviousToCursor := by
  refine fun i s t hi h => ⟨exec_bus_cursor hi h, fun s' hs' => ⟨t.beside s', ?_, State.busView_beside t s'⟩⟩
  rw [State.eq_beside_of_busView hs']
  exact exec_bus_beside s' hi h

end Sys2Proof.Machine
end

section
/-! SUPPORT. The pointer as a number after each native address byte, and the order in which the two are sent
(spec/20_memory.md R46). -/

namespace Sys2Proof.Machine

/-- R71: `hi : lo` as a number. -/
theorem concat16_toNat (hi lo : Byte) : (concat16 hi lo).toNat = hi.toNat * 256 + lo.toNat := by
  calc (hi ++ lo).toNat = hi.toNat <<< 8 ||| lo.toNat := BitVec.toNat_append hi lo
    _ = hi.toNat <<< 8 + lo.toNat := (Nat.shiftLeft_add_eq_or_of_lt lo.isLt hi.toNat).symm
    _ = hi.toNat * 256 + lo.toNat := by rw [Nat.shiftLeft_eq]

@[simp] theorem ptrOfByte_toNat (b : Byte) : (ptrOfByte b).toNat = b.toNat :=
  BitVec.toNat_setWidth_of_le (by decide)

/-- The high byte joins the low byte that the pointer holds, whatever its high byte was. -/
@[simp] theorem ptrOfHigh_toNat (hi : Byte) (p : Half) :
    (ptrOfHigh hi p).toNat = hi.toNat * 256 + p.toNat % 256 := by
  have hlow : (lowByte p).toNat = p.toNat % 256 := BitVec.toNat_setWidth 8 p
  rw [ptrOfHigh, concat16_toNat, hlow]

/-- The high byte completes the low byte sent before it. -/
theorem ptrOfHigh_ptrOfByte_toNat (hi lo : Byte) :
    (ptrOfHigh hi (ptrOfByte lo)).toNat = hi.toNat * 256 + lo.toNat := by
  rw [ptrOfHigh_toNat, ptrOfByte_toNat, Nat.mod_eq_of_lt lo.isLt]

/-- Settles O22: the first byte leaves itself in the pointer, and the second goes above it. -/
theorem nativeAddressLowByteFirst : Obligations.NativeAddressLowByteFirst := by
  intro lo hi s
  have hlo : exec (.rxAddrLo lo) s = .next ((s.setPtr (ptrOfByte lo)).setPhase .addrHi) := exec_of_effect rfl
  exact ⟨_, _, hlo, exec_of_effect rfl, ptrOfHigh_ptrOfByte_toNat hi lo, rfl⟩

end Sys2Proof.Machine
end

section
/-! SUPPORT. The decoder on the words of RX, and the roles of a received byte (spec/30_encoding.md R70). -/

namespace Sys2Proof.Machine

/-- An RX word has the role that the mode and the phase give its data byte, whatever `est` is. -/
theorem decode_rxWord (c : Context) (b : Byte) :
    decode c (.event (eventWord 0b010 b)) = decodeRx c.mode c.phase b := by
  simp [decode, decodeEvent, eventCode_eventWord, eventData_eventWord]

/-- The role that the two impossible pairs give is refused in every state. -/
theorem exec_rxInvalid (b : Byte) (s : State) : exec (.rxInvalid b) s = .refused .impossibleRole := rfl

/-- Settles O8: an RX word is decoded by `(MODE, phase)` alone, and each of the eight pairs is a row of `decodeRx`. -/
theorem rxRoleByModeAndPhase : Obligations.RxRoleByModeAndPhase := by
  intro e b s
  have role (m : Mode) (p : Phase) :
      decode { mode := m, phase := p, est := e } (.event (eventWord 0b010 b)) = decodeRx m p b := decode_rxWord _ b
  exact ⟨role .native .addr, role .native .addrHi, role .native .data, role .compat .addr, role .compat .page,
    role .compat .data, role .native .page, role .compat .addrHi, exec_rxInvalid b s⟩

end Sys2Proof.Machine
end

section
/-! SUPPORT. The emit ticks of the encoder: the byte each takes its group from, and the four ticks of one byte
(spec/40_serial_encoder.md R79 to R84). -/

namespace Sys2Proof.Machine

variable {s t : State}

/-! ### The role of a tick -/

/-- A BYTE_READY word has the role that `est` selects, whatever its data field is. -/
theorem decode_tickWord (c : Context) (d : Byte) : decode c (.event (eventWord 0b110 d)) = decodeTick c.est := by
  simp [decode, decodeEvent, eventCode_eventWord]

/-- A tick word in a state whose `est` is known. -/
theorem decode_tickWord_of_est {e : EncState} (h : s.est = e) (d : Byte) :
    decode s.ctx (.event (eventWord 0b110 d)) = decodeTick e := h ▸ decode_tickWord s.ctx d

/-! ### The byte the groups are taken from (R80) -/

theorem latch_eq_setCur_ite (s : State) (v : Byte) :
    latch s v = s.setCur (if s.cfg.encFetch = .latched then v else s.cur) := by
  rcases latch_cases s v with ⟨hf, h⟩ | ⟨hf, h⟩
  · rw [h, hf]
    rfl
  · rw [h, hf]
    rfl

theorem laterByte_eq_ite (s : State) :
    laterByte s = if s.cfg.encFetch = .perGroup then s.buf.read s.idx.toNat else s.cur := by
  unfold laterByte
  split
  · next hf => rw [hf, if_pos rfl]
  · next hf => rw [hf, if_neg nofun]

/-- Once `G0` has latched its byte or left it, groups 1 to 3 are taken from that byte in both fetch modes. -/
theorem laterByte_latch (s : State) :
    laterByte (latch s (s.buf.read s.idx.toNat)) = s.buf.read s.idx.toNat := by
  rw [laterByte_eq_ite]
  rcases latch_cases s (s.buf.read s.idx.toNat) with ⟨hf, h⟩ | ⟨hf, h⟩
  · rw [h, if_pos hf]
  · rw [h, State.setCur_cfg, hf, if_neg nofun, State.setCur_cur]

@[simp] theorem latch_cfg (s : State) (v : Byte) : (latch s v).cfg = s.cfg := by
  rw [latch_eq_setCur_ite, State.setCur_cfg]
@[simp] theorem latch_idx (s : State) (v : Byte) : (latch s v).idx = s.idx := by
  rw [latch_eq_setCur_ite, State.setCur_idx]
@[simp] theorem latch_cap (s : State) (v : Byte) : (latch s v).cap = s.cap := by
  rw [latch_eq_setCur_ite, State.setCur_cap]
@[simp] theorem latch_emitted (s : State) (v : Byte) : (latch s v).emitted = s.emitted := by
  rw [latch_eq_setCur_ite, State.setCur_emitted]

/-- The advance after group 3, by whether more of the buffer is left (R84). -/
theorem advanceByte_eq_ite (s : State) :
    advanceByte s =
      if s.idx.toNat + 1 < s.cap then (s.setIdx (s.idx + 1)).setEst .g0
      else ((s.setIdx 0).setCnt s.cfg.resetBytes).setEst .rst := by
  rcases advanceByte_cases s with ⟨hmore, h⟩ | ⟨hlast, h⟩
  · rw [h, if_pos hmore]
  · rw [h, if_neg (Nat.not_lt.mpr hlast)]

@[simp] theorem advanceByte_emitted (s : State) : (advanceByte s).emitted = s.emitted := by
  obtain ⟨k, n, e, h⟩ := advanceByte_eq_setCursor s
  rw [h, State.setEst_emitted, State.setCnt_emitted, State.setIdx_emitted]

/-! ### The ticks one by one -/

/-- Settles O33: the effect of the tick, with the latch written out. -/
theorem encG0EmitsGroup0 : Obligations.EncG0EmitsGroup0 := by
  refine fun s => ⟨fun d hest => decode_tickWord_of_est hest d, fun hlt => exec_of_effect ⟨hlt, ?_⟩⟩
  rw [latch_eq_setCur_ite]
  rfl

/-- Settles O34: the effects of the two ticks, with the byte they take their groups from written out. -/
theorem encG1AndG2EmitTheirGroups : Obligations.EncG1AndG2EmitTheirGroups := by
  intro s v hlt hv
  obtain rfl : v = laterByte s := hv.trans (laterByte_eq_ite s).symm
  exact ⟨fun d hest => decode_tickWord_of_est hest d, fun d hest => decode_tickWord_of_est hest d,
    exec_of_effect ⟨hlt, rfl⟩, exec_of_effect ⟨hlt, rfl⟩⟩

/-- Settles O35: the effect of the tick, with the two cases of the advance. -/
theorem encG3EmitsAndAdvances : Obligations.EncG3EmitsAndAdvances := by
  intro s v hlt hv
  obtain rfl : v = laterByte s := hv.trans (laterByte_eq_ite s).symm
  exact ⟨fun d hest => decode_tickWord_of_est hest d,
    exec_of_effect ⟨hlt, (advanceByte_eq_ite (s.pushEmit _)).symm⟩⟩

/-! ### The four ticks of a byte -/

/-- One tick of a run: the effect of the role that `est` selects, then the ticks that follow. -/
theorem feed_tick {e : EncState} (hd : s.cfg.inDomain = true) (hest : s.est = e) (h : Effect (decodeTick e) s t)
    (n : Nat) : s.feed (ticks (n + 1)) = t.feed (ticks n) := by
  have hrole : decodeEvent s.ctx (eventWord 0b110 0) = decodeTick e := decode_tickWord_of_est hest 0
  calc s.feed (ticks (n + 1))
      = guardConfig s (andThen (exec (decodeEvent s.ctx (eventWord 0b110 0)) s) fun u => u.feed (ticks n)) :=
        feed_cons s _ (ticks n)
    _ = andThen (exec (decodeEvent s.ctx (eventWord 0b110 0)) s) fun u => u.feed (ticks n) := if_pos hd
    _ = t.feed (ticks n) := by rw [hrole, exec_of_effect h, andThen_next]

/-- The four encoded bytes of a source byte, emitted (R79). -/
def State.pushEncoded (s : State) (v : Byte) : State := { s with emitted := s.emitted ++ encodeByte s.cfg.lut v }

@[simp] theorem State.pushEncoded_emitted (s : State) (v : Byte) :
    (s.pushEncoded v).emitted = s.emitted ++ encodeByte s.cfg.lut v := rfl

/-- The four groups emitted one by one. -/
theorem State.pushEncoded_eq (s : State) (v : Byte) :
    s.pushEncoded v =
      (((s.pushEmit (s.cfg.lut.get (group0 v))).pushEmit (s.cfg.lut.get (group1 v))).pushEmit
        (s.cfg.lut.get (group2 v))).pushEmit (s.cfg.lut.get (group3 v)) := by
  simp [State.pushEncoded, State.pushEmit, encodeByte]

/-- The state after the four ticks that consume the byte at `idx` (R81 to R84). -/
def afterByte (s : State) : State :=
  advanceByte ((latch s (s.buf.read s.idx.toNat)).pushEncoded (s.buf.read s.idx.toNat))

theorem afterByte_emitted (s : State) :
    (afterByte s).emitted = s.emitted ++ encodeByte s.cfg.lut (s.buf.read s.idx.toNat) := by
  simp [afterByte]

/-- From `G1` three ticks emit groups 1 to 3 of one byte and advance: none of them changes what the next reads. -/
theorem feed_laterTicks (hd : s.cfg.inDomain = true) (hlt : s.idx.toNat < s.cap) (hest : s.est = .g1) {v : Byte}
    (hv : laterByte s = v) (n : Nat) :
    s.feed (ticks (n + 3)) =
      (advanceByte (((s.pushEmit (s.cfg.lut.get (group1 v))).pushEmit (s.cfg.lut.get (group2 v))).pushEmit
        (s.cfg.lut.get (group3 v)))).feed (ticks n) := by
  subst hv
  let s₂ := (s.pushEmit (s.cfg.lut.get (group1 (laterByte s)))).setEst .g2
  let s₃ := (s₂.pushEmit (s.cfg.lut.get (group2 (laterByte s)))).setEst .g3
  calc s.feed (ticks (n + 3))
      = s₂.feed (ticks (n + 2)) := feed_tick hd hest ⟨hlt, rfl⟩ (n + 2)
    _ = s₃.feed (ticks (n + 1)) := feed_tick (s := s₂) hd rfl ⟨hlt, rfl⟩ (n + 1)
    _ = _ := feed_tick (s := s₃) hd rfl ⟨hlt, rfl⟩ n

/-- From `G0` four ticks consume the byte at `idx`, in both fetch modes. -/
theorem feed_fourTicks (hd : s.cfg.inDomain = true) (hlt : s.idx.toNat < s.cap) (hest : s.est = .g0) (n : Nat) :
    s.feed (ticks (n + 4)) = (afterByte s).feed (ticks n) := by
  let v := s.buf.read s.idx.toNat
  let s₁ := ((latch s v).pushEmit (s.cfg.lut.get (group0 v))).setEst .g1
  have hcfg : s₁.cfg = s.cfg := latch_cfg s v
  have hlt' : s₁.idx.toNat < s₁.cap := (latch_idx s v).symm ▸ (latch_cap s v).symm ▸ hlt
  calc s.feed (ticks (n + 4))
      = s₁.feed (ticks (n + 3)) := feed_tick hd hest ⟨hlt, rfl⟩ (n + 3)
    _ = (advanceByte (((s₁.pushEmit (s₁.cfg.lut.get (group1 v))).pushEmit (s₁.cfg.lut.get (group2 v))).pushEmit
          (s₁.cfg.lut.get (group3 v)))).feed (ticks n) :=
        feed_laterTicks (s := s₁) (hcfg ▸ hd) hlt' rfl (laterByte_latch s) n
    _ = (afterByte s).feed (ticks n) := by
        rw [hcfg, afterByte, State.pushEncoded_eq, latch_cfg]
        rfl

/-- The groups by arithmetic: each is two bits of the byte, further down by two places (R79). -/
theorem encodeByte_eq_ofNat (l : Lut) (v : Byte) :
    encodeByte l v =
      [l.get (BitVec.ofNat 2 (v.toNat / 64)), l.get (BitVec.ofNat 2 (v.toNat / 16)),
       l.get (BitVec.ofNat 2 (v.toNat / 4)), l.get (BitVec.ofNat 2 v.toNat)] := by
  have h (k : Nat) : v.extractLsb' k 2 = BitVec.ofNat 2 (v.toNat / 2 ^ k) :=
    congrArg (BitVec.ofNat 2) (Nat.shiftRight_eq_div_pow v.toNat k)
  simp [encodeByte, group0, group1, group2, group3, h]

/-- Settles O38: the four ticks consume the byte, and what they emit are its groups, written by arithmetic. -/
theorem fourTicksEmitFourGroups : Obligations.FourTicksEmitFourGroups := by
  intro s v hd hlt hest hv
  subst hv
  exact ⟨afterByte s, feed_fourTicks hd hlt hest 0, encodeByte_eq_ofNat s.cfg.lut _ ▸ afterByte_emitted s⟩

end Sys2Proof.Machine
end

section
/-! SUPPORT. The events of the bus slave: the native high address byte, the stop and the not-acknowledge
(spec/41_bus_slave.md R93, R96, R97). -/

namespace Sys2Proof.Machine

/-! ### The native high address byte -/

/-- An RX word in a state whose mode and phase are known. -/
theorem decode_rxWord_of_role {s : State} {m : Mode} {p : Phase} (hm : s.cfg.mode = m) (hp : s.phase = p)
    (b : Byte) : decode s.ctx (.event (eventWord 0b010 b)) = decodeRx m p b :=
  hm ▸ hp ▸ decode_rxWord s.ctx b

/-- The pointer after the native high byte, by arithmetic. -/
theorem ptrOfHigh_eq_ofNat (hi : Byte) (p : Half) :
    ptrOfHigh hi p = BitVec.ofNat 16 (hi.toNat * 256 + p.toNat % 256) := by
  rw [← ptrOfHigh_toNat, BitVec.ofNat_toNat, BitVec.setWidth_eq]

/-- Settles O21: the role by mode and phase, and the effect with the pointer written by arithmetic. -/
theorem rxAddrHiSetsHighByte : Obligations.RxAddrHiSetsHighByte := by
  refine fun b s => ⟨fun hm hp => decode_rxWord_of_role hm hp b, exec_of_effect ?_⟩
  rw [← ptrOfHigh_eq_ofNat]
  rfl

/-! ### The stop and the not-acknowledge -/

/-- A stop word is a stop in every context, whatever its data field is. -/
theorem decode_stopWord (c : Context) (d : Byte) : decode c (.event (eventWord 0b100 d)) = .stop := by
  simp [decode, decodeEvent, eventCode_eventWord]

/-- A not-acknowledge word is one in every context, whatever its data field is. -/
theorem decode_nackWord (c : Context) (d : Byte) : decode c (.event (eventWord 0b101 d)) = .nack := by
  simp [decode, decodeEvent, eventCode_eventWord]

/-- Settles O26: each word has its one role, and the effect of either is to stay in the state. -/
theorem stopAndNackChangeNothing : Obligations.StopAndNackChangeNothing :=
  fun s d => ⟨decode_stopWord s.ctx d, exec_of_effect rfl, decode_nackWord s.ctx d, exec_of_effect rfl⟩

end Sys2Proof.Machine
end

section
/-! The remap on the channels of a pixel (spec/42_remap_shim.md R108). -/

namespace Sys2Proof.Machine

/-- Settles O29: the offset of a pixel's channel, modulo 3, is the channel, which picks the branch of `remap_eq`. -/
theorem remapSwapsChannels : Obligations.RemapSwapsChannels := by
  refine fun p => ⟨?channel0, ?channel1, ?channel2⟩
  case channel0 => rw [remap_eq, if_pos (by omega)]
  case channel1 => rw [remap_eq, if_neg (by omega), if_pos (by omega), Nat.add_sub_cancel]
  case channel2 => rw [remap_eq, if_neg (by omega), if_neg (by omega)]

end Sys2Proof.Machine
end

section
/-! SUPPORT. The decoder on the words of each event code and on address bytes, and the round trips between operations
and their words (spec/30_encoding.md). -/

namespace Sys2Proof.Machine

/-! ### The words of the event codes (R67) -/

theorem decode_addrMatchWWord (c : Context) (d : Byte) : decode c (.event (eventWord 0b000 d)) = .addrMatchW := by
  simp [decode, decodeEvent, eventCode_eventWord]

theorem decode_addrMatchRWord (c : Context) (d : Byte) : decode c (.event (eventWord 0b001 d)) = .addrMatchR := by
  simp [decode, decodeEvent, eventCode_eventWord]

theorem decode_txReqWord (c : Context) (d : Byte) : decode c (.event (eventWord 0b011 d)) = .txReq := by
  simp [decode, decodeEvent, eventCode_eventWord]

theorem decode_reservedWord (c : Context) (d : Byte) : decode c (.event (eventWord 0b111 d)) = .reserved := by
  simp [decode, decodeEvent, eventCode_eventWord]

/-- Settles O7: one lemma per code, and the role that each `est` gives a tick. -/
theorem eventCodesDecode : Obligations.EventCodesDecode := by
  refine fun c d => ⟨decode_addrMatchWWord c d, decode_addrMatchRWord c d, decode_txReqWord c d, decode_stopWord c d,
    decode_nackWord c d, (decode_tickWord c d).trans ?_, decode_reservedWord c d⟩
  obtain ⟨m, p, est⟩ := c
  cases est <;> rfl

/-- Settles O9: each word has eight or eleven bits, and its operation is computed. -/
theorem specWordsDecode : Obligations.SpecWordsDecode := by
  unfold Obligations.SpecWordsDecode
  decide

/-! ### Address bytes (R62, R63) -/

/-- The block's own address bytes are the two that `addrByte` makes. -/
theorem isSlaveAddrByte_iff (b : Byte) : isSlaveAddrByte b = true ↔ b = 0xE8 ∨ b = 0xE9 := by
  revert b
  decide

theorem isSlaveAddrByte_of_ne {b : Byte} (hw : b ≠ 0xE8) (hr : b ≠ 0xE9) : isSlaveAddrByte b = false := by
  rw [Bool.eq_false_iff, ne_eq, isSlaveAddrByte_iff]
  exact not_or.mpr ⟨hw, hr⟩

@[simp] theorem decode_addrByte (c : Context) (d : Dir) : decode c (.wire (addrByte d)) = .wireAddr d := by
  cases d <;> rfl

theorem decode_otherByte (c : Context) {b : Byte} (h : isSlaveAddrByte b = false) :
    decode c (.wire b) = .wireOther b := if_neg (Bool.eq_false_iff.mp h)

/-- Settles O16: the operation stays in the state, and no other address byte is the block's own. -/
theorem wireOtherRaisesNothing : Obligations.WireOtherRaisesNothing :=
  ⟨fun _ _ => exec_of_effect rfl, fun c _ hw hr => decode_otherByte c (isSlaveAddrByte_of_ne hw hr)⟩

/-! ### The cases of an input -/

theorem eventCode_cases (code : BitVec 3) :
    code = 0b000 ∨ code = 0b001 ∨ code = 0b010 ∨ code = 0b011 ∨ code = 0b100 ∨ code = 0b101 ∨ code = 0b110 ∨
      code = 0b111 := by
  revert code
  decide

/-- What holds of the words of each of the eight codes holds of every event word. -/
theorem eventWord_induction {P : EventWord → Prop} (h0 : ∀ d, P (eventWord 0b000 d)) (h1 : ∀ d, P (eventWord 0b001 d))
    (h2 : ∀ d, P (eventWord 0b010 d)) (h3 : ∀ d, P (eventWord 0b011 d)) (h4 : ∀ d, P (eventWord 0b100 d))
    (h5 : ∀ d, P (eventWord 0b101 d)) (h6 : ∀ d, P (eventWord 0b110 d)) (h7 : ∀ d, P (eventWord 0b111 d))
    (e : EventWord) : P e := by
  rw [← eventWord_fields e]
  rcases eventCode_cases (eventCode e) with h | h | h | h | h | h | h | h <;> rw [h]
  exacts [h0 _, h1 _, h2 _, h3 _, h4 _, h5 _, h6 _, h7 _]

/-! ### The round trips -/

@[simp] theorem encode_decodeRx (m : Mode) (p : Phase) (b : Byte) :
    encode (decodeRx m p b) = .event (eventWord 0b010 b) := by
  cases m <;> cases p <;> rfl

@[simp] theorem encode_decodeTick (est : EncState) : encode (decodeTick est) = .event (eventWord 0b110 0) := by
  cases est <;> rfl

@[simp] theorem wellFormed_decodeRx (m : Mode) (p : Phase) (b : Byte) : (decodeRx m p b).wellFormed = true := by
  cases m <;> cases p <;> rfl

@[simp] theorem wellFormed_decodeTick (est : EncState) : (decodeTick est).wellFormed = true := by
  cases est <;> rfl

/-- The canonical form of a word clears the data field of every code but RX's. -/
theorem canonical_eventWord (code : BitVec 3) (d : Byte) :
    (Input.event (eventWord code d)).canonical = .event (eventWord code (if code = 0b010 then d else 0)) := by
  simp only [Input.canonical, eventCode_eventWord]
  split <;> rfl

/-- An input decodes to a well-formed operation that the context admits, whose encoding is the canonical input. -/
def DecodesCanonically (c : Context) (w : Input) : Prop :=
  (decode c w).wellFormed = true ∧ (decode c w).admittedIn c = true ∧ encode (decode c w) = w.canonical

theorem wire_decodesCanonically (c : Context) (b : Byte) : DecodesCanonically c (.wire b) := by
  unfold DecodesCanonically
  cases h : isSlaveAddrByte b with
  | true =>
    obtain rfl | rfl := (isSlaveAddrByte_iff b).mp h
    · exact ⟨rfl, rfl, rfl⟩
    · exact ⟨rfl, rfl, rfl⟩
  | false =>
    rw [decode_otherByte c h]
    exact ⟨by rw [Instr.wellFormed, h]; rfl, rfl, rfl⟩

theorem event_decodesCanonically (c : Context) (e : EventWord) : DecodesCanonically c (.event e) := by
  unfold DecodesCanonically
  induction e using eventWord_induction with
  | h0 d => rw [decode_addrMatchWWord, canonical_eventWord]; exact ⟨rfl, rfl, rfl⟩
  | h1 d => rw [decode_addrMatchRWord, canonical_eventWord]; exact ⟨rfl, rfl, rfl⟩
  | h2 d =>
    rw [decode_rxWord, canonical_eventWord]
    exact ⟨wellFormed_decodeRx _ _ d, decodeRx_admitted c d, encode_decodeRx _ _ d⟩
  | h3 d => rw [decode_txReqWord, canonical_eventWord]; exact ⟨rfl, rfl, rfl⟩
  | h4 d => rw [decode_stopWord, canonical_eventWord]; exact ⟨rfl, rfl, rfl⟩
  | h5 d => rw [decode_nackWord, canonical_eventWord]; exact ⟨rfl, rfl, rfl⟩
  | h6 d =>
    rw [decode_tickWord, canonical_eventWord]
    exact ⟨wellFormed_decodeTick _, decodeTick_admitted c, encode_decodeTick _⟩
  | h7 d => rw [decode_reservedWord, canonical_eventWord]; exact ⟨rfl, rfl, rfl⟩

/-- Settles O6: address bytes by whether they are the block's own, event words by their code. -/
theorem encodeOfDecodeIsCanonical : Obligations.EncodeOfDecodeIsCanonical := fun c w =>
  match w with
  | .wire b => wire_decodesCanonically c b
  | .event e => event_decodesCanonically c e

/-- Every input decodes to an operation that the context admits (R70). -/
theorem decode_admitted (c : Context) (w : Input) : (decode c w).admittedIn c = true :=
  (encodeOfDecodeIsCanonical c w).2.1

/-- Settles O5: the context that admits an operation gives the operation's word its role. -/
theorem decodeOfEncodeIsIdentity : Obligations.DecodeOfEncodeIsIdentity := by
  rintro ⟨m, p, est⟩ i hw ha
  cases i with
  | wireAddr d => exact decode_addrByte _ d
  | wireOther b =>
    have hb : isSlaveAddrByte b = false := by simpa [Instr.wellFormed] using hw
    exact decode_otherByte _ hb
  | addrMatchW => exact decode_addrMatchWWord _ 0
  | addrMatchR => exact decode_addrMatchRWord _ 0
  | txReq => exact decode_txReqWord _ 0
  | stop => exact decode_stopWord _ 0
  | nack => exact decode_nackWord _ 0
  | reserved => exact decode_reservedWord _ 0
  | rxInvalid b =>
    refine (decode_rxWord _ b).trans ?_
    obtain ⟨rfl, rfl⟩ | ⟨rfl, rfl⟩ : (m = .native ∧ p = .page) ∨ (m = .compat ∧ p = .addrHi) := by
      simpa [Instr.admittedIn] using ha
    · rfl
    · rfl
  | rxAddrLo b | rxAddrHi b | rxDataN b | rxAddrC b | rxPage b | rxDataC b =>
    refine (decode_rxWord _ b).trans ?_
    simp only [Instr.admittedIn, Bool.and_eq_true, beq_iff_eq] at ha
    obtain ⟨rfl, rfl⟩ := ha
    rfl
  | encG0 | encG1 | encG2 | encG3 | encRst =>
    obtain rfl := eq_of_beq ha
    exact decode_tickWord _ 0

end Sys2Proof.Machine
end

section
/-! SUPPORT. The step of one input, what is refused and that nothing faults (spec/60_exceptions.md). -/

namespace Sys2Proof.Machine

variable {i : Instr} {s t : State}

/-- A step of a configuration in the domain runs the decoded oldest input. -/
theorem step_of_inDomain {w : Input} {rest : List Input} (hd : s.cfg.inDomain = true) (h : s.inputs = w :: rest) :
    step s = exec (decode s.ctx w) (s.setInputs rest) := (step_of_input h).trans (if_pos hd)

/-- Settles O10: the step of one input, with the state that `setInputs` gives written out. -/
theorem stepRunsDecodedInput : Obligations.StepRunsDecodedInput := fun _ _ _ hd h => step_of_inDomain hd h

/-- Settles O11: with nothing to take, the step answers its own state. -/
theorem stepWithNothingPending : Obligations.StepWithNothingPending := by
  intro s hd h
  unfold step
  rw [takeInput_none.mpr h]
  exact if_pos hd

/-- The domain by its three conditions (R8). -/
theorem inDomain_iff (c : Config) : c.inDomain = true ↔ 1 ≤ c.nLeds ∧ c.cap ≤ 65535 ∧ 1 ≤ c.resetBytes := by
  simp [Config.inDomain, and_assoc]

/-- Settles O12: each of the three values breaks one condition of the domain. -/
theorem configOutsideDomainRefused : Obligations.ConfigOutsideDomainRefused := by
  intro s h
  refine if_neg fun hd => ?_
  obtain ⟨hleds, hcap, hreset⟩ := (inDomain_iff s.cfg).mp hd
  rw [Config.cap] at hcap
  omega

/-- Settles O14: the word is decoded whatever its data field is, and its operation has no other outcome. -/
theorem reservedEventRefused : Obligations.ReservedEventRefused := by
  have refused (s : State) : exec .reserved s = .refused .reservedEvent := rfl
  refine ⟨refused, fun s d rest hd h => ?_⟩
  rw [step_of_inDomain hd h, decode_reservedWord, refused]

/-! ### The bus controller's two steps -/

@[simp] theorem andThen_self (r : Result) : andThen r .next = r := by
  cases r <;> rfl

/-- The block's own address byte and the address match it raises are two steps (log 7). -/
theorem runSteps_addrByte (d : Dir) {rest : List Input} (hd : s.cfg.inDomain = true)
    (h : s.inputs = .wire (addrByte d) :: rest) :
    runSteps 2 s = exec (decode s.ctx (.event (matchEvent d))) (s.setInputs rest) := by
  have hraise : step s = .next (s.setInputs (.event (matchEvent d) :: rest)) := by
    rw [step_of_inDomain hd h, decode_addrByte]
    exact exec_of_effect rfl
  have hmatch := step_of_inDomain (s := s.setInputs (.event (matchEvent d) :: rest)) hd rfl
  calc runSteps 2 s = andThen (step s) fun u => andThen (step u) .next := rfl
    _ = step (s.setInputs (.event (matchEvent d) :: rest)) := by rw [hraise, andThen_next, andThen_self]
    _ = exec (decode s.ctx (.event (matchEvent d))) (s.setInputs rest) := hmatch

/-- Settles O15: the effect of either byte, and the two steps with the raised event decoded. -/
theorem wireAddrRaisesAddressMatch : Obligations.WireAddrRaisesAddressMatch := by
  refine ⟨fun s => exec_of_effect rfl, fun s => exec_of_effect rfl, fun s rest hd h => ?_, fun s rest hd h => ?_⟩
  · exact (runSteps_addrByte .w hd h).trans (by rw [matchEvent, decode_addrMatchWWord]; rfl)
  · exact (runSteps_addrByte .r hd h).trans (by rw [matchEvent, decode_addrMatchRWord]; rfl)

/-! ### Refused ticks (R86) -/

/-- A tick with the index out of bounds is refused. -/
theorem exec_tick_of_ge (hi : i.agent = some .enc) (h : s.cap ≤ s.idx.toNat) :
    exec i s = .refused .encoderInvariant := by
  have hge : ¬ s.idx.toNat < s.cap := Nat.not_lt.mpr h
  cases i with
  | encG0 | encG1 | encG2 | encG3 => exact guardIdx_of_ge hge _
  | encRst => exact guardGap_of_not (fun hg => hge hg.1) _
  | _ => exact nomatch hi

/-- A gap tick with the count out of bounds is refused. -/
theorem exec_encRst_of_count (h : s.cnt = 0 ∨ s.cfg.resetBytes < s.cnt) :
    exec .encRst s = .refused .encoderInvariant :=
  guardGap_of_not (fun ⟨_, hpos, hle⟩ => by omega) _

/-- Settles O37: the guard of a tick asks for the index, and that of the gap tick for the count as well. -/
theorem brokenCursorRefused : Obligations.BrokenCursorRefused :=
  fun _ => ⟨fun h _ hi => exec_tick_of_ge hi h, exec_encRst_of_count⟩

/-! ### Nothing faults (R114) -/

/-- A data byte is handled in every state: it is stored at a target in bounds, or dropped. -/
theorem rxDataN_answers (b : Byte) (s : State) : ∃ t, exec (.rxDataN b) s = .next t := by
  cases h : nativeTarget s with
  | none => exact ⟨_, exec_of_effect (.inr ⟨h, rfl⟩)⟩
  | some a => exact ⟨_, exec_of_effect (.inl ⟨a, h, rfl⟩)⟩

theorem rxDataC_answers (b : Byte) (s : State) : ∃ t, exec (.rxDataC b) s = .next t := by
  cases h : compatTarget s with
  | none => exact ⟨_, exec_of_effect (.inr ⟨h, rfl⟩)⟩
  | some a => exact ⟨_, exec_of_effect (.inl ⟨a, h, rfl⟩)⟩

/-- Every operation but a tick is handled in every state, unless the spec refuses it (R69, R70). -/
theorem exec_answers (hi : i.agent ≠ some .enc) (hinv : ∀ b, i ≠ .rxInvalid b) (hres : i ≠ .reserved) :
    ∃ t, exec i s = .next t := by
  cases i with
  | rxDataN b => exact rxDataN_answers b s
  | rxDataC b => exact rxDataC_answers b s
  | txReq => exact txReq_answers s
  | rxInvalid b => exact absurd rfl (hinv b)
  | reserved => exact absurd rfl hres
  | encG0 | encG1 | encG2 | encG3 | encRst => exact absurd rfl hi
  | _ => exact ⟨_, exec_of_effect rfl⟩

/-- A tick is handled or refused, never a fault: the guard holds the index in bounds before any read. -/
theorem exec_tick_ne_fault (hi : i.agent = some .enc) (f : Fault) : exec i s ≠ .fault f := by
  rcases Nat.lt_or_ge s.idx.toNat s.cap with hlt | hge
  · have answered : (∃ t, exec i s = .next t) → exec i s ≠ .fault f := by
      rintro ⟨t, h⟩ hf
      exact nomatch h.symm.trans hf
    cases i with
    | encG0 | encG1 | encG2 | encG3 => exact answered ⟨_, exec_of_effect ⟨hlt, rfl⟩⟩
    | encRst =>
      by_cases hc : s.cnt = 0 ∨ s.cfg.resetBytes < s.cnt
      · rw [exec_encRst_of_count hc]
        exact nofun
      · exact answered ⟨_, exec_of_effect ⟨⟨hlt, by omega, by omega⟩, rfl⟩⟩
    | _ => exact nomatch hi
  · rw [exec_tick_of_ge hi hge]
    exact nofun

theorem exec_ne_fault (i : Instr) (s : State) (f : Fault) : exec i s ≠ .fault f := by
  by_cases hi : i.agent = some .enc
  · exact exec_tick_ne_fault hi f
  cases i with
  | rxInvalid b => exact nofun
  | reserved => exact nofun
  | _ =>
    obtain ⟨t, h⟩ := exec_answers (s := s) hi nofun nofun
    rw [h]
    exact nofun

/-- Settles O13: a step runs one operation, which does not fault, or is refused, or does nothing. -/
theorem noStepFaults : Obligations.NoStepFaults := by
  intro s f
  by_cases hd : s.cfg.inDomain = true
  · cases hin : s.inputs with
    | nil =>
      rw [stepWithNothingPending s hd hin]
      exact nofun
    | cons w rest =>
      rw [step_of_inDomain hd hin]
      exact exec_ne_fault _ _ f
  · rw [step, guardConfig, if_neg hd]
    exact nofun

end Sys2Proof.Machine
end

section
/-! SUPPORT. The invariant: it holds at reset, each named update that an operation makes keeps it, and so does every
step (spec/10_state.md, spec/40_serial_encoder.md R86). -/

namespace Sys2Proof.Machine

variable {i : Instr} {s t : State}

/-! ### At reset (R131) -/

/-- Settles O1: every value of the reset state is the one it is built with. -/
theorem resetStateOfEveryBuild : Obligations.ResetStateOfEveryBuild := by
  refine ⟨fun c s hs => ?_, rfl⟩
  subst hs
  exact ⟨Memory.read_nil, rfl, rfl, rfl, rfl, rfl, rfl, rfl, rfl, rfl, rfl⟩

theorem inv_resetOf {c : Config} (hd : c.inDomain = true) : (State.resetOf c).Inv := by
  obtain ⟨hleds, -, hreset⟩ := (inDomain_iff c).mp hd
  exact {
    domain := hd
    canonical := Memory.wf_reset c
    withinCap := rfl
    idxBound := by
      change 0 < 3 * c.nLeds
      omega
    cntBound := le_rfl
    gapCount := fun _ => hreset
    phaseNative := nofun
    phaseCompat := nofun
    ptrWidth := Nat.two_pow_pos _
    pageNative := fun _ => rfl
    curPerGroup := fun _ => rfl }

/-- Settles O2: the invariant holds at reset of every build, and the model's own build is in the domain. -/
theorem resetMeetsInvariant : Obligations.ResetMeetsInvariant :=
  ⟨fun _ => inv_resetOf, inv_resetOf (by decide)⟩

/-- The next index or pointer, where the 16 bits do not wrap. -/
theorem half_succ_toNat {p : Half} (h : p.toNat + 1 < 65536) : (p + 1).toNat = p.toNat + 1 :=
  BitVec.toNat_add_of_lt h

/-! ### The named updates -/

namespace State.Inv

theorem setInputs (hs : s.Inv) (l : List Input) : (s.setInputs l).Inv := { hs with }

theorem pushReply (hs : s.Inv) (b : Byte) : (s.pushReply b).Inv := { hs with }

theorem pushEmit (hs : s.Inv) (b : Byte) : (s.pushEmit b).Inv := { hs with }

theorem writeBuf (hs : s.Inv) {a : Nat} (ha : a < s.cap) (b : Byte) : (s.setBuf (s.buf.write a b)).Inv :=
  { hs with canonical := Memory.wf_write a b hs.canonical, withinCap := Memory.within_write b ha hs.withinCap }

theorem setPtr (hs : s.Inv) {p : Half} (hp : p.toNat < 2 ^ s.cfg.ptrWidth) : (s.setPtr p).Inv :=
  { hs with ptrWidth := hp }

theorem setPhase (hs : s.Inv) {p : Phase} (hn : s.cfg.mode = .native → p ≠ .page)
    (hc : s.cfg.mode = .compat → p ≠ .addrHi) : (s.setPhase p).Inv :=
  { hs with phaseNative := hn, phaseCompat := hc }

theorem setPage (hs : s.Inv) {b : Byte} (hb : s.cfg.mode = .native → b = 0x00) : (s.setPage b).Inv :=
  { hs with pageNative := hb }

theorem setCur (hs : s.Inv) {b : Byte} (hb : s.cfg.encFetch = .perGroup → b = 0x00) : (s.setCur b).Inv :=
  { hs with curPerGroup := hb }

theorem setIdx (hs : s.Inv) {k : Half} (hk : k.toNat < s.cap) : (s.setIdx k).Inv := { hs with idxBound := hk }

theorem setCnt (hs : s.Inv) {n : Nat} (hn : n ≤ s.cfg.resetBytes) (hg : s.est = .rst → 1 ≤ n) : (s.setCnt n).Inv :=
  { hs with cntBound := hn, gapCount := hg }

theorem setEst (hs : s.Inv) {e : EncState} (he : e = .rst → 1 ≤ s.cnt) : (s.setEst e).Inv :=
  { hs with gapCount := he }

/-! ### The updates an operation is made of -/

theorem cap_pos (hs : s.Inv) : 0 < s.cap := Nat.zero_lt_of_lt hs.idxBound

theorem matchPage (hs : s.Inv) : (matchPage s).Inv := by
  rcases matchPage_cases s with h | h
  · rwa [h]
  · rw [h]
    exact hs.setPage fun _ => rfl

theorem matchReadPtr (hs : s.Inv) : (matchReadPtr s).Inv := by
  rcases matchReadPtr_cases s with h | h
  · rwa [h]
  · rw [h]
    exact hs.setPtr (Nat.two_pow_pos _)

theorem latch (hs : s.Inv) (v : Byte) : (latch s v).Inv := by
  rcases latch_cases s v with ⟨-, h⟩ | ⟨hf, h⟩
  · rwa [h]
  · rw [h]
    exact hs.setCur fun hp => nomatch hf.symm.trans hp

theorem advanceByte (hs : s.Inv) : (advanceByte s).Inv := by
  rcases advanceByte_cases s with ⟨hmore, h⟩ | ⟨-, h⟩
  · have hidx : (s.idx + 1).toNat < s.cap := by
      have hcap := ((inDomain_iff s.cfg).mp hs.domain).2.1
      rw [State.cap_eq] at hmore ⊢
      rw [half_succ_toNat (by omega)]
      exact hmore
    exact h ▸ (hs.setIdx hidx).setEst nofun
  · have hreset := ((inDomain_iff s.cfg).mp hs.domain).2.2
    exact h ▸ ((hs.setIdx (k := 0) hs.cap_pos).setCnt le_rfl fun _ => hreset).setEst fun _ => hreset

theorem countDown (hs : s.Inv) : (countDown s).Inv := by
  rcases countDown_cases s with ⟨htwo, h⟩ | ⟨-, h⟩
  · have hle := hs.cntBound
    exact h ▸ hs.setCnt (by omega) fun _ => by omega
  · -- the countdown reaches zero as the gap ends, so `est` is set first
    have hend : (((s.setEst .g0).setIdx 0).setCnt 0).Inv :=
      ((hs.setEst (e := .g0) nofun).setIdx (k := 0) hs.cap_pos).setCnt (Nat.zero_le _) nofun
    exact h ▸ hend

end State.Inv

/-! ### The step -/

theorem ptrWidth_of_native {c : Config} (h : c.mode = .native) : c.ptrWidth = 16 := by
  rw [Config.ptrWidth, h]

theorem ptrWidth_ge_eight (c : Config) : 8 ≤ c.ptrWidth := by
  unfold Config.ptrWidth
  split
  · decide
  · split <;> decide

/-- A byte fits every width the pointer can have. -/
theorem ptrOfByte_lt (c : Config) (b : Byte) : (ptrOfByte b).toNat < 2 ^ c.ptrWidth := by
  rw [ptrOfByte_toNat]
  exact lt_of_lt_of_le b.isLt (Nat.pow_le_pow_right (by decide) (ptrWidth_ge_eight c))

theorem half_lt_of_native {c : Config} (h : c.mode = .native) (p : Half) : p.toNat < 2 ^ c.ptrWidth := by
  rw [ptrWidth_of_native h]
  exact p.isLt

/-- An operation that the context admits keeps the invariant. -/
theorem exec_keeps_inv (hs : s.Inv) (ha : i.admittedIn s.ctx = true) (h : exec i s = .next t) : t.Inv := by
  have he := exec_effect h
  cases i with
  | wireAddr d => exact he ▸ hs.setInputs _
  | addrMatchW =>
    exact he ▸ ((hs.setPhase (p := .addr) nofun nofun).setPtr (p := 0x0000) (Nat.two_pow_pos _)).matchPage
  | addrMatchR => exact he ▸ (hs.setPhase (p := .addr) nofun nofun).matchReadPtr.matchPage
  | rxAddrLo b =>
    have hn : s.cfg.mode = .native := eq_of_beq (Bool.and_eq_true_iff.mp ha).1
    exact he ▸ (hs.setPtr (ptrOfByte_lt _ b)).setPhase nofun fun hc => nomatch hn.symm.trans hc
  | rxAddrHi b =>
    have hn : s.cfg.mode = .native := eq_of_beq (Bool.and_eq_true_iff.mp ha).1
    exact he ▸ (hs.setPtr (half_lt_of_native hn _)).setPhase nofun nofun
  | rxDataN b =>
    have hn : s.cfg.mode = .native := eq_of_beq (Bool.and_eq_true_iff.mp ha).1
    obtain ⟨a, hta, rfl⟩ | ⟨-, rfl⟩ := he
    · exact (hs.writeBuf (nativeTarget_lt hta) b).setPtr (half_lt_of_native hn _)
    · exact hs
  | rxAddrC b =>
    have hc : s.cfg.mode = .compat := eq_of_beq (Bool.and_eq_true_iff.mp ha).1
    refine he ▸ (hs.setPtr (ptrOfByte_lt _ b)).setPhase (fun hn => nomatch hc.symm.trans hn) fun _ => ?_
    split <;> nofun
  | rxPage b =>
    have hc : s.cfg.mode = .compat := eq_of_beq (Bool.and_eq_true_iff.mp ha).1
    exact he ▸ ((hs.setPage fun hn => nomatch hc.symm.trans hn).setPtr (inc_lt _ _)).setPhase nofun nofun
  | rxDataC b =>
    obtain ⟨a, hta, rfl⟩ | ⟨-, rfl⟩ := he
    · exact (hs.writeBuf (compatTarget_lt hta) b).setPtr (inc_lt _ _)
    · exact hs.setPtr (inc_lt _ _)
  | txReq =>
    obtain ⟨-, rfl⟩ | ⟨-, rfl⟩ := he
    · exact (hs.pushReply _).setPtr (inc_lt _ _)
    · exact hs.pushReply _
  | encG0 => exact he.2 ▸ ((hs.latch _).pushEmit _).setEst nofun
  | encG1 | encG2 => exact he.2 ▸ (hs.pushEmit _).setEst nofun
  | encG3 => exact he.2 ▸ (hs.pushEmit _).advanceByte
  | encRst => exact he.2 ▸ (hs.pushEmit _).countDown
  | wireOther _ | stop | nack => exact he ▸ hs
  | rxInvalid _ | reserved => exact he.elim

/-- Settles O3: a step runs an operation that its context admits, and each of its updates keeps the invariant. -/
theorem stepKeepsInvariant : Obligations.StepKeepsInvariant := by
  intro s t hs h
  obtain ⟨-, ⟨-, rfl⟩ | ⟨w, rest, -, hx⟩⟩ := step_cases h
  · exact hs
  · exact exec_keeps_inv (hs.setInputs rest) (decode_admitted s.ctx w) hx

/-! ### Every pending event is handled -/

/-- The two impossible pairs of mode and phase break the invariant (R28). -/
theorem not_admitted_rxInvalid (hs : s.Inv) (b : Byte) : ¬ (Instr.rxInvalid b).admittedIn s.ctx = true := by
  intro ha
  obtain ⟨hm, hp⟩ | ⟨hm, hp⟩ :
      (s.cfg.mode = .native ∧ s.phase = .page) ∨ (s.cfg.mode = .compat ∧ s.phase = .addrHi) := by
    simpa [Instr.admittedIn, State.ctx] using ha
  · exact hs.phaseNative hm hp
  · exact hs.phaseCompat hm hp

/-- Only the words of the reserved code stand for the reserved operation (R69). -/
theorem reserved_word {c : Context} {w : Input} (h : decode c w = .reserved) : ∃ d, w = .event (eventWord 0b111 d) := by
  have hcanon := (encodeOfDecodeIsCanonical c w).2.2
  rw [h] at hcanon
  cases w with
  | wire b => exact nomatch hcanon
  | event e =>
    rw [← eventWord_fields e, canonical_eventWord, encode, Input.event.injEq] at hcanon
    have hcode := congrArg eventCode hcanon
    rw [eventCode_eventWord, eventCode_eventWord] at hcode
    exact ⟨eventData e, by rw [hcode, eventWord_fields]⟩

/-- Settles O4: the invariant rules out the impossible roles, and gives a tick what its guard asks for. -/
theorem everyPendingEventIsHandled : Obligations.EveryPendingEventIsHandled := by
  intro s w rest hs hin hw
  rw [step_of_inDomain hs.domain hin]
  have ha : (decode s.ctx w).admittedIn (s.setInputs rest).ctx = true := decode_admitted s.ctx w
  by_cases hi : (decode s.ctx w).agent = some .enc
  · exact tick_answers (hs.setInputs rest) hi ha
  · refine exec_answers hi (fun b hb => not_admitted_rxInvalid (hs.setInputs rest) b (hb ▸ ha)) fun hres => ?_
    obtain ⟨d, hd⟩ := reserved_word hres
    exact hw d hd

end Sys2Proof.Machine
end

section
/-! SUPPORT. The rules of the bus events one by one, with their next states written out: the Register Protocol Slave
(spec/41_bus_slave.md) and the Compatibility Remap Shim (spec/42_remap_shim.md). -/

namespace Sys2Proof.Machine

variable {s : State}

/-! ### Address matches -/

theorem pageClearedByMatch_iff (c : Config) :
    pageClearedByMatch c = true ↔ c.mode = .compat ∧ c.pageScope = .transaction := by
  simp [pageClearedByMatch]

/-- The page after an address match, by its scope (R107). -/
def matchedPage (s : State) : Byte :=
  if s.cfg.mode = .compat ∧ s.cfg.pageScope = .transaction then 0x00 else s.page

theorem matchPage_eq_setPage_matchedPage (s : State) : matchPage s = s.setPage (matchedPage s) := by
  unfold matchedPage
  unfold matchPage
  simp only [pageClearedByMatch_iff]
  split <;> rfl

theorem matchReadPtr_eq_ite (s : State) :
    matchReadPtr s = s.setPtr (if s.cfg.ptrOnReadMatch = .clear then 0x0000 else s.ptr) := by
  unfold matchReadPtr
  split
  · next h => rw [h, if_pos rfl]
  · next h =>
    rw [h, if_neg nofun]
    rfl

/-- Settles O18: the effect of the match, with the page by its scope. -/
theorem addrMatchWStartsWrite : Obligations.AddrMatchWStartsWrite :=
  fun s => exec_of_effect (matchPage_eq_setPage_matchedPage ((s.setPhase .addr).setPtr 0x0000)).symm

/-- Settles O19: the effect of the match, with the pointer and the page by their parameters. -/
theorem addrMatchRStartsRead : Obligations.AddrMatchRStartsRead := by
  refine fun s => exec_of_effect ?_
  change _ = matchPage (matchReadPtr (s.setPhase .addr))
  rw [matchReadPtr_eq_ite, matchPage_eq_setPage_matchedPage]
  rfl

/-! ### Address bytes -/

theorem ptrOfByte_eq_ofNat (b : Byte) : ptrOfByte b = BitVec.ofNat 16 b.toNat := by
  rw [← ptrOfByte_toNat, BitVec.ofNat_toNat, BitVec.setWidth_eq]

theorem inc_eq_ofNat (c : Config) (p : Half) : inc c p = BitVec.ofNat 16 ((p.toNat + 1) % 2 ^ c.ptrWidth) := rfl

/-- Settles O20: the effect of the byte, with the pointer by arithmetic. -/
theorem rxAddrLoSetsLowByte : Obligations.RxAddrLoSetsLowByte := by
  refine fun b s => exec_of_effect ?_
  rw [← ptrOfByte_eq_ofNat]
  rfl

/-- Settles O27: the effect of the byte, with the pointer by arithmetic. -/
theorem rxAddrCSetsLegacyAddress : Obligations.RxAddrCSetsLegacyAddress := by
  refine fun b s => exec_of_effect ?_
  rw [← ptrOfByte_eq_ofNat]
  rfl

/-- Settles O28: the effect of the page value, with the increment by arithmetic. -/
theorem rxPageSetsPage : Obligations.RxPageSetsPage := by
  refine fun b s => exec_of_effect ?_
  rw [← inc_eq_ofNat]
  rfl

/-! ### Data bytes and byte requests -/

/-- A pointer out of bounds has no native target (R94). -/
theorem nativeTarget_none (h : s.cap ≤ s.ptr.toNat) : nativeTarget s = none := by
  rw [Option.eq_none_iff_forall_ne_some]
  intro a ha
  obtain ⟨hlt, -⟩ := nativeTarget_some.mp ha
  omega

/-- Settles O23: the effect of the byte at a pointer in bounds, and out of bounds. -/
theorem rxDataNStoresInBounds : Obligations.RxDataNStoresInBounds := by
  intro b s
  split
  · next h => exact exec_of_effect (.inl ⟨s.ptr.toNat, nativeTarget_some.mpr ⟨h, rfl⟩, rfl⟩)
  · next h => exact exec_of_effect (.inr ⟨nativeTarget_none (Nat.le_of_not_lt h), rfl⟩)

/-- Settles O24: the effect of the request at a pointer in bounds, and out of bounds. -/
theorem txReqRepliesByteAtPointer : Obligations.TxReqRepliesByteAtPointer := by
  intro s
  split
  · next h => exact exec_of_effect (.inl ⟨h, rfl⟩)
  · next h => exact exec_of_effect (.inr ⟨Nat.le_of_not_lt h, rfl⟩)

/-- Where a compatible data byte is not stored (R109). -/
theorem compatTarget_none :
    compatTarget s = none ↔ ¬ (s.page = 0x00 ∧ s.cfg.colorBase.toNat ≤ s.ptr.toNat ∧
      remap (s.ptr.toNat - s.cfg.colorBase.toNat) < s.cap) := by
  rw [Option.eq_none_iff_forall_ne_some]
  constructor
  · rintro h ⟨hpage, hbase, hcap⟩
    exact h _ (compatTarget_some.mpr ⟨hpage, hbase, hcap, rfl⟩)
  · rintro h a ha
    obtain ⟨hpage, hbase, hcap, -⟩ := compatTarget_some.mp ha
    exact h ⟨hpage, hbase, hcap⟩

/-- Settles O30: the effect of the byte where it has a target, and where it has none. -/
theorem rxDataCStoresTranslated : Obligations.RxDataCStoresTranslated := by
  refine fun b s => exec_of_effect ?_
  split
  · next h =>
    obtain ⟨hpage, hbase, hcap⟩ := h
    exact .inl ⟨_, compatTarget_some.mpr ⟨hpage, hbase, hcap, rfl⟩, rfl⟩
  · next h => exact .inr ⟨compatTarget_none.mpr h, rfl⟩

/-! ### The increment (R26) -/

theorem ptrWidth_of_bits8 {c : Config} (hm : c.mode = .compat) (hb : c.ptrBitsCompat = .bits8) :
    c.ptrWidth = 8 := by
  rw [Config.ptrWidth, hm, hb]

theorem ptrWidth_of_bits16 {c : Config} (hm : c.mode = .compat) (hb : c.ptrBitsCompat = .bits16) :
    c.ptrWidth = 16 := by
  rw [Config.ptrWidth, hm, hb]

theorem inc_toNat_of_width {c : Config} {w : Nat} (h : c.ptrWidth = w) (p : Half) :
    (inc c p).toNat = (p.toNat + 1) % 2 ^ w := h ▸ inc_toNat c p

/-- An increment that does not wrap. -/
theorem inc_toNat_of_lt {c : Config} {p : Half} (h : p.toNat + 1 < 2 ^ c.ptrWidth) :
    (inc c p).toNat = p.toNat + 1 := by
  rw [inc_toNat, Nat.mod_eq_of_lt h]

/-- In `NATIVE` the increment of a pointer in bounds does not wrap. -/
theorem native_inc_lt {c : Config} (hm : c.mode = .native) (hd : c.inDomain = true) {n : Nat} (h : n < c.cap) :
    n + 1 < 2 ^ c.ptrWidth := by
  obtain ⟨-, hcap, -⟩ := (inDomain_iff c).mp hd
  rw [ptrWidth_of_native hm]
  omega

/-- Settles O25: the increment at each width, and no wrap below a capacity in the domain. -/
theorem pointerIncrementWraps : Obligations.PointerIncrementWraps := by
  refine fun c p => ⟨fun hm => ?_, fun hm hb => ?_, fun hm hb => ?_, fun hm hd hlt => ?_⟩
  · exact inc_toNat_of_width (ptrWidth_of_native hm) p
  · exact inc_toNat_of_width (ptrWidth_of_bits8 hm hb) p
  · exact inc_toNat_of_width (ptrWidth_of_bits16 hm hb) p
  · exact inc_toNat_of_lt (native_inc_lt hm hd hlt)

/-! ### The remap (R108, R110, R113) -/

theorem remap_div_three (r : Nat) : remap r / 3 = r / 3 := by
  rw [remap_eq]
  split
  · omega
  · split <;> omega

theorem remap_remap (r : Nat) : remap (remap r) = r := by
  obtain ⟨h0, h1, h2⟩ := remapSwapsChannels (r / 3)
  obtain hr | hr | hr : r = 3 * (r / 3) ∨ r = 3 * (r / 3) + 1 ∨ r = 3 * (r / 3) + 2 := by omega
  · rw [hr, h0, h1]
  · rw [hr, h1, h0]
  · rw [hr, h2, h2]

/-- The remap stays in its pixel, so it keeps every bound of whole pixels. -/
theorem remap_lt_iff (r n : Nat) : remap r < 3 * n ↔ r < 3 * n := by
  have h := remap_div_three r
  omega

theorem remap_lt_cap (s : State) (r : Nat) : remap r < s.cap ↔ r < s.cap := remap_lt_iff r s.cfg.nLeds

/-- A compatible data byte is stored in the `CAP` legacy addresses from `COLOR_BASE` under page 0, and nowhere else. -/
theorem compatTarget_isSome_iff : (∃ a, compatTarget s = some a) ↔
    s.page = 0x00 ∧ s.cfg.colorBase.toNat ≤ s.ptr.toNat ∧ s.ptr.toNat < s.cfg.colorBase.toNat + s.cap := by
  constructor
  · rintro ⟨a, ha⟩
    obtain ⟨hpage, hbase, hcap, -⟩ := compatTarget_some.mp ha
    rw [remap_lt_cap] at hcap
    exact ⟨hpage, hbase, by omega⟩
  · rintro ⟨hpage, hbase, hcap⟩
    exact ⟨_, compatTarget_some.mpr ⟨hpage, hbase, (remap_lt_cap s _).mpr (by omega), rfl⟩⟩

/-- Settles O31: the remap by pixel and channel, and the addresses that have a target. -/
theorem remapPermutesPixels : Obligations.RemapPermutesPixels :=
  ⟨fun r => ⟨remap_div_three r, remap_remap r⟩, remap_lt_iff, fun _ => compatTarget_isSome_iff⟩

/-- Settles O32: an offset's legacy address is `COLOR_BASE` and the offset before the remap. -/
theorem compatReachableOffsets : Obligations.CompatReachableOffsets := by
  intro c t
  constructor
  · rintro ⟨s, rfl, -, hptr, ht⟩
    obtain ⟨-, hbase, hcap, rfl⟩ := compatTarget_some.mp ht
    rw [remap_lt_cap, State.cap_eq] at hcap
    exact ⟨_, by omega, rfl⟩
  · rintro ⟨r, hr, rfl⟩
    have hptr : (BitVec.ofNat 16 (c.colorBase.toNat + r)).toNat = c.colorBase.toNat + r := by
      rw [BitVec.toNat_ofNat]
      omega
    let s := (State.resetOf c).setPtr (BitVec.ofNat 16 (c.colorBase.toNat + r))
    have hsub : s.ptr.toNat - s.cfg.colorBase.toNat = r := by
      change (BitVec.ofNat 16 (c.colorBase.toNat + r)).toNat - c.colorBase.toNat = r
      omega
    refine ⟨s, rfl, rfl, ?_, compatTarget_some.mpr ⟨rfl, ?_, ?_, ?_⟩⟩
    · exact hptr ▸ by omega
    · exact hptr ▸ Nat.le_add_right _ r
    · rw [hsub, remap_lt_cap]
      exact lt_of_lt_of_le hr (Nat.min_le_left _ _)
    · rw [hsub]

end Sys2Proof.Machine
end

section
/-! SUPPORT. Who writes the bus side (spec/10_state.md sections 2 to 4), and the frames of the three kinds of
operation. -/

namespace Sys2Proof.Machine

variable {i : Instr} {s t : State}

/-! ### The writers of each field of the bus side -/

/-- What no bus event has done leaves the bus side as it is. -/
theorem exec_busView_of_not_bus (hi : i.agent ≠ some .bus) (h : exec i s = .next t) : t.busView = s.busView := by
  obtain ⟨a, ha⟩ := exec_agent h
  cases a with
  | bus => exact absurd ha hi
  | enc =>
    obtain ⟨c, b, k, n, e, rfl⟩ := exec_tick_writes ha h
    rfl
  | controller =>
    obtain ⟨l, rfl⟩ := exec_controller_writes ha h
    rfl

theorem State.fields_of_busView (h : t.busView = s.busView) :
    t.buf = s.buf ∧ t.ptr = s.ptr ∧ t.phase = s.phase ∧ t.page = s.page ∧ t.replies = s.replies := by
  simp only [State.busView, Prod.mk.injEq] at h
  exact h.2

/-- A match clears the page in a `COMPAT` build with `PAGE_SCOPE = TRANSACTION` only (R107). -/
theorem matchPage_page_ne (h : (matchPage s).page ≠ s.page) :
    s.cfg.mode = .compat ∧ s.cfg.pageScope = .transaction := by
  by_contra hc
  rw [matchPage_eq_setPage_matchedPage] at h
  exact h (if_neg hc)

theorem exec_bus_buf (hi : i.agent = some .bus) (h : exec i s = .next t) (hne : t.buf ≠ s.buf) :
    ∃ b, i = .rxDataN b ∨ i = .rxDataC b := by
  have he := exec_effect h
  cases i with
  | rxDataN b => exact ⟨b, .inl rfl⟩
  | rxDataC b => exact ⟨b, .inr rfl⟩
  | addrMatchW =>
    obtain ⟨g, hg⟩ := matchPage_eq_setPage ((s.setPhase .addr).setPtr 0x0000)
    exact absurd (congrArg State.buf (he.trans hg)) hne
  | addrMatchR =>
    obtain ⟨p, hp⟩ := matchReadPtr_eq_setPtr (s.setPhase .addr)
    obtain ⟨g, hg⟩ := matchPage_eq_setPage ((s.setPhase .addr).setPtr p)
    rw [Effect, hp, hg] at he
    exact absurd (congrArg State.buf he) hne
  | txReq =>
    obtain ⟨b, p, rfl⟩ := exec_txReq_writes h
    exact absurd rfl hne
  | rxInvalid b => exact he.elim
  | rxAddrLo _ | rxAddrHi _ | rxAddrC _ | rxPage _ | stop | nack => exact absurd (congrArg State.buf he) hne
  | _ => exact nomatch hi

theorem exec_bus_ptr (hi : i.agent = some .bus) (h : exec i s = .next t) (hne : t.ptr ≠ s.ptr) :
    i = .addrMatchW ∨ i = .addrMatchR ∨ i = .txReq ∨
      ∃ b, i = .rxAddrLo b ∨ i = .rxAddrHi b ∨ i = .rxAddrC b ∨ i = .rxPage b ∨ i = .rxDataN b ∨ i = .rxDataC b := by
  have he := exec_effect h
  cases i with
  | stop | nack => exact absurd (congrArg State.ptr he) hne
  | rxInvalid b => exact he.elim
  | addrMatchW | addrMatchR | txReq | rxAddrLo _ | rxAddrHi _ | rxAddrC _ | rxPage _ | rxDataN _ | rxDataC _ => simp
  | _ => exact nomatch hi

theorem exec_bus_phase (hi : i.agent = some .bus) (h : exec i s = .next t) (hne : t.phase ≠ s.phase) :
    i = .addrMatchW ∨ i = .addrMatchR ∨
      ∃ b, i = .rxAddrLo b ∨ i = .rxAddrHi b ∨ i = .rxAddrC b ∨ i = .rxPage b := by
  have he := exec_effect h
  cases i with
  | addrMatchW | addrMatchR | rxAddrLo _ | rxAddrHi _ | rxAddrC _ | rxPage _ => simp
  | txReq =>
    obtain ⟨b, p, rfl⟩ := exec_txReq_writes h
    exact absurd rfl hne
  | rxDataN b | rxDataC b =>
    obtain ⟨a, -, rfl⟩ | ⟨-, rfl⟩ := he
    · exact absurd rfl hne
    · exact absurd rfl hne
  | stop | nack => exact absurd (congrArg State.phase he) hne
  | rxInvalid b => exact he.elim
  | _ => exact nomatch hi

theorem exec_bus_page (hi : i.agent = some .bus) (h : exec i s = .next t) (hne : t.page ≠ s.page) :
    (∃ b, i = .rxPage b) ∨
      ((i = .addrMatchW ∨ i = .addrMatchR) ∧ s.cfg.mode = .compat ∧ s.cfg.pageScope = .transaction) := by
  have he := exec_effect h
  cases i with
  | rxPage b => exact .inl ⟨b, rfl⟩
  | addrMatchW =>
    subst he
    exact .inr ⟨.inl rfl, matchPage_page_ne (s := (s.setPhase .addr).setPtr 0x0000) hne⟩
  | addrMatchR =>
    obtain ⟨p, hp⟩ := matchReadPtr_eq_setPtr (s.setPhase .addr)
    rw [Effect, hp] at he
    subst he
    exact .inr ⟨.inr rfl, matchPage_page_ne (s := (s.setPhase .addr).setPtr p) hne⟩
  | txReq =>
    obtain ⟨b, p, rfl⟩ := exec_txReq_writes h
    exact absurd rfl hne
  | rxDataN b | rxDataC b =>
    obtain ⟨a, -, rfl⟩ | ⟨-, rfl⟩ := he
    · exact absurd rfl hne
    · exact absurd rfl hne
  | rxAddrLo _ | rxAddrHi _ | rxAddrC _ | stop | nack => exact absurd (congrArg State.page he) hne
  | rxInvalid b => exact he.elim
  | _ => exact nomatch hi

/-- Settles O46: an operation of another port leaves the bus side alone, and each bus event writes its own fields. -/
theorem writersOfBusState : Obligations.WritersOfBusState := by
  intro i s t h
  by_cases hi : i.agent = some .bus
  · exact ⟨exec_bus_buf hi h, exec_bus_ptr hi h, exec_bus_phase hi h, exec_bus_page hi h⟩
  · obtain ⟨hbuf, hptr, hphase, hpage, -⟩ := State.fields_of_busView (exec_busView_of_not_bus hi h)
    exact ⟨absurd hbuf, absurd hptr, absurd hphase, absurd hpage⟩

/-! ### The frame of a bus event -/

/-- A bus event leaves everything that is not of the bus side. -/
theorem exec_bus_eq_beside (hi : i.agent = some .bus) (h : exec i s = .next t) : t = t.beside s :=
  next_eq ((exec_bus_beside s hi h).symm.trans h)

theorem exec_bus_keeps (hi : i.agent = some .bus) (h : exec i s = .next t) :
    t.inputs = s.inputs ∧ t.emitted = s.emitted ∧ t.est = s.est ∧ t.idx = s.idx ∧ t.cnt = s.cnt ∧ t.cur = s.cur := by
  rw [exec_bus_eq_beside hi h]
  exact ⟨rfl, rfl, rfl, rfl, rfl, rfl⟩

/-- Settles O42: what a bus event leaves of the cursor and the outputs, and what the writers of O46 leave out. -/
theorem nonStoringBusEventsFrame : Obligations.NonStoringBusEventsFrame := by
  intro i s t hi h
  have hbus : i.agent = some .bus := by
    rcases hi with rfl | rfl | rfl | rfl | rfl | ⟨b, rfl | rfl | rfl | rfl⟩ <;> rfl
  obtain ⟨hbuf, -, hphase, hpage⟩ := writersOfBusState i s t h
  obtain ⟨hinputs, hemitted, hest, hidx, hcnt, hcur⟩ := exec_bus_keeps hbus h
  have hbuf : t.buf = s.buf := by
    by_contra hne
    obtain ⟨b, rfl | rfl⟩ := hbuf hne
    · simp at hi
    · simp at hi
  refine ⟨fun a => hbuf ▸ rfl, exec_cfg h, hinputs, hemitted, hest, hidx, hcnt, hcur, fun hq => ?_,
    fun hW hR hP => ?_, fun hi' => ?_, fun hi' => ?_⟩
  · have hne : i.agent ≠ some .enc := hbus ▸ nofun
    exact (exec_other_silent hq hne h).1
  · by_contra hne
    obtain ⟨b, hb⟩ | ⟨hm | hm, -⟩ := hpage hne
    exacts [hP b hb, hW hm, hR hm]
  · by_contra hne
    have hw := hphase hne
    rcases hi' with rfl | rfl | rfl <;> simp at hw
  · rcases hi' with rfl | rfl
    · exact congrArg State.ptr (exec_effect h)
    · exact congrArg State.ptr (exec_effect h)

/-! ### The frame of a data byte -/

/-- A data byte is stored at its target, if it has one, and writes the pointer besides (R94, R109). -/
theorem exec_data_cases {b : Byte} (hi : i = .rxDataN b ∨ i = .rxDataC b) (h : exec i s = .next t) :
    (∃ a p, storeTarget i s = some a ∧ t = (s.setBuf (s.buf.write a b)).setPtr p) ∨
      (storeTarget i s = none ∧ ∃ p, t = s.setPtr p) := by
  have he := exec_effect h
  rcases hi with rfl | rfl
  · obtain ⟨a, ha, ht⟩ | ⟨hn, ht⟩ := he
    · exact .inl ⟨a, _, ha, ht⟩
    · exact .inr ⟨hn, s.ptr, ht⟩
  · obtain ⟨a, ha, ht⟩ | ⟨hn, ht⟩ := he
    · exact .inl ⟨a, _, ha, ht⟩
    · exact .inr ⟨hn, _, ht⟩

/-- Settles O43: the byte at the target, if it is stored, and the pointer. -/
theorem dataBytesFrame : Obligations.DataBytesFrame := by
  intro b i s t hi h
  obtain ⟨a, p, ha, rfl⟩ | ⟨hn, p, rfl⟩ := exec_data_cases hi h
  · refine ⟨fun a₁ ha₁ => ?_, fun hn => (nomatch ha.symm.trans hn), rfl, rfl, rfl, rfl, rfl, rfl, rfl, rfl, rfl, rfl⟩
    obtain rfl : a = a₁ := Option.some.inj (ha.symm.trans ha₁)
    exact ⟨Memory.read_write_same s.buf a b, fun a' ha' => Memory.read_write_other s.buf b ha'⟩
  · exact ⟨fun a ha => (nomatch hn.symm.trans ha), fun _ _ => rfl, rfl, rfl, rfl, rfl, rfl, rfl, rfl, rfl, rfl, rfl⟩

/-- Every operation leaves the bytes it does not store to (R24). -/
theorem exec_read_of_not_target {a : Nat} (ha : storeTarget i s ≠ some a) (h : exec i s = .next t) :
    t.buf.read a = s.buf.read a := by
  by_cases hd : ∃ b, i = .rxDataN b ∨ i = .rxDataC b
  · obtain ⟨b, hi⟩ := hd
    obtain ⟨hstored, hdropped, -⟩ := dataBytesFrame b i s t hi h
    cases htar : storeTarget i s with
    | none => exact hdropped htar a
    | some a' => exact (hstored a' htar).2 a fun haa => ha (haa ▸ htar)
  · obtain ⟨hbuf, -⟩ := writersOfBusState i s t h
    rw [not_imp_comm.mp hbuf hd]

/-! ### The frame of a tick -/

/-- Only a `G0` tick with `ENC_FETCH = LATCHED` writes the latch (R80). -/
theorem exec_tick_cur (hi : i.agent = some .enc) (h : exec i s = .next t)
    (hl : i ≠ .encG0 ∨ s.cfg.encFetch = .perGroup) : t.cur = s.cur := by
  have he := exec_effect h
  cases i with
  | encG0 =>
    have hf : s.cfg.encFetch = .perGroup := hl.resolve_left fun h => h rfl
    rw [he.2, latch_eq_setCur_ite, hf]
    rfl
  | encG1 | encG2 =>
    rw [he.2]
    rfl
  | encG3 =>
    obtain ⟨k, n, e, hadv⟩ := advanceByte_eq_setCursor (s.pushEmit (s.cfg.lut.get (group3 (laterByte s))))
    rw [he.2, hadv]
    rfl
  | encRst =>
    obtain ⟨k, n, e, hcnt⟩ := countDown_eq_setCursor (s.pushEmit 0x00)
    rw [he.2, hcnt]
    rfl
  | _ => exact nomatch hi

/-- The ticks before `G3` stay at their byte (R81 to R83). -/
theorem exec_tick_index (h : exec i s = .next t) (hi : i = .encG0 ∨ i = .encG1 ∨ i = .encG2) :
    t.idx = s.idx ∧ t.cnt = s.cnt := by
  have he := exec_effect h
  rcases hi with rfl | rfl | rfl
  · rw [he.2, latch_eq_setCur_ite]
    exact ⟨rfl, rfl⟩
  · exact he.2 ▸ ⟨rfl, rfl⟩
  · exact he.2 ▸ ⟨rfl, rfl⟩

theorem exec_tick_busView (hi : i.agent = some .enc) (h : exec i s = .next t) : t.busView = s.busView :=
  exec_busView_of_not_bus (hi ▸ nofun) h

/-- Settles O44: a tick leaves the bus side, and writes of the cursor what its rule names. -/
theorem encoderTicksFrame : Obligations.EncoderTicksFrame := by
  intro i s t hi h
  obtain ⟨hbuf, hptr, hphase, hpage, hreplies⟩ := State.fields_of_busView (exec_tick_busView hi h)
  exact ⟨fun a => hbuf ▸ rfl, exec_cfg h, exec_inputs (hi ▸ nofun) h, hreplies, hptr, hphase, hpage,
    exec_tick_cur hi h, exec_tick_index h⟩

end Sys2Proof.Machine
end

section
/-! SUPPORT. A tick depends on nothing of the bus side but the byte it reads, and so commutes with bus events
(spec/40_serial_encoder.md section 4, spec/60_exceptions.md section 2); what is stored is seen by the next read. -/

namespace Sys2Proof.Machine

variable {i j : Instr} {s t r : State}

/-! ### A tick beside another bus side -/

theorem latch_beside (hc : r.cfg = s.cfg) (v : Byte) : latch (r.beside s) v = r.beside (latch s v) := by
  have hcfg : (r.beside s).cfg = s.cfg := hc
  rw [latch_eq_setCur_ite, latch_eq_setCur_ite, hcfg]
  rfl

theorem laterByte_beside (hc : r.cfg = s.cfg)
    (hread : s.cfg.encFetch = .perGroup → r.buf.read s.idx.toNat = s.buf.read s.idx.toNat) :
    laterByte (r.beside s) = laterByte s := by
  have hcfg : (r.beside s).cfg = s.cfg := hc
  rw [laterByte_eq_ite, laterByte_eq_ite, hcfg]
  split
  · next hf => exact hread hf
  · rfl

theorem advanceByte_beside (hc : r.cfg = s.cfg) : advanceByte (r.beside s) = r.beside (advanceByte s) := by
  have hcfg : (r.beside s).cfg = s.cfg := hc
  rw [advanceByte_eq_ite, advanceByte_eq_ite, State.cap_eq, State.cap_eq, hcfg]
  have hidx : (r.beside s).idx = s.idx := rfl
  rw [hidx]
  split <;> rfl

theorem countDown_beside (r s : State) : countDown (r.beside s) = r.beside (countDown s) := by
  rcases countDown_cases s with ⟨htwo, h⟩ | ⟨hone, h⟩
  · rw [h]
    rcases countDown_cases (r.beside s) with ⟨-, h'⟩ | ⟨hone', -⟩
    · exact h'
    · exact absurd hone' (Nat.not_le.mpr htwo)
  · rw [h]
    rcases countDown_cases (r.beside s) with ⟨htwo', -⟩ | ⟨-, h'⟩
    · exact absurd htwo' (Nat.not_le.mpr (Nat.lt_succ_of_le hone))
    · exact h'

/-- A tick does the same beside any bus side of the same build that agrees on the byte the tick reads. -/
theorem exec_tick_beside (hi : i.agent = some .enc) (hc : r.cfg = s.cfg)
    (hread : i = .encG0 ∨ s.cfg.encFetch = .perGroup → r.buf.read s.idx.toNat = s.buf.read s.idx.toNat)
    (h : exec i s = .next t) : exec i (r.beside s) = .next (r.beside t) := by
  have hcfg : (r.beside s).cfg = s.cfg := hc
  have hcap : (r.beside s).cap = s.cap := congrArg Config.cap hc
  have hlater : laterByte (r.beside s) = laterByte s := laterByte_beside hc fun hf => hread (.inr hf)
  rw [exec_next_iff] at h ⊢
  cases i with
  | encG0 =>
    obtain ⟨hlt, rfl⟩ := h
    have hbyte : (r.beside s).buf.read (r.beside s).idx.toNat = s.buf.read s.idx.toNat := hread (.inl rfl)
    refine ⟨hcap ▸ hlt, ?_⟩
    rw [hbyte, hcfg, latch_beside hc]
    rfl
  | encG1 | encG2 =>
    obtain ⟨hlt, rfl⟩ := h
    refine ⟨hcap ▸ hlt, ?_⟩
    rw [hlater, hcfg]
    rfl
  | encG3 =>
    obtain ⟨hlt, rfl⟩ := h
    refine ⟨hcap ▸ hlt, ?_⟩
    rw [hlater, hcfg]
    exact (advanceByte_beside (s := s.pushEmit _) hc).symm
  | encRst =>
    obtain ⟨⟨hlt, hcount⟩, rfl⟩ := h
    refine ⟨⟨hcap ▸ hlt, hcfg ▸ hcount⟩, ?_⟩
    exact (countDown_beside r (s.pushEmit 0x00)).symm
  | _ => exact nomatch hi

/-- Settles O41: the latched byte is the only one these ticks read, so they do the same beside any buffer. -/
theorem latchedTicksIgnoreBuffer : Obligations.LatchedTicksIgnoreBuffer := by
  intro i s m hi hl hlt
  have henc : i.agent = some .enc := by rcases hi with rfl | rfl | rfl <;> rfl
  obtain ⟨t, h⟩ : ∃ t, exec i s = .next t := by
    rcases hi with rfl | rfl | rfl <;> exact ⟨_, exec_of_effect ⟨hlt, rfl⟩⟩
  have hnoread : ¬ (i = .encG0 ∨ s.cfg.encFetch = .perGroup) := by
    rcases hi with rfl | rfl | rfl <;> simp [hl]
  have ht : t = s.beside t := State.eq_beside_of_busView (exec_tick_busView henc h)
  have hm : t.setBuf m = (s.setBuf m).beside t := congrArg (State.setBuf · m) ht
  refine ⟨t, h, ?_⟩
  change exec i ((s.setBuf m).beside s) = .next (t.setBuf m)
  rw [hm]
  exact exec_tick_beside henc rfl (fun hr => absurd hr hnoread) h

/-- Settles O49: a state with the same encoder view is another bus side beside the same cursor. -/
theorem encoderObliviousToBus : Obligations.EncoderObliviousToBus := by
  intro i s t s' hi h hview
  simp only [State.encView, Prod.mk.injEq] at hview
  obtain ⟨hcfg, hbuf, hest, hidx, hcnt, hcur, hemitted⟩ := hview
  have hs' : (s'.beside s).setInputs s'.inputs = s' := by
    simp only [State.beside, State.setInputs, ← hest, ← hidx, ← hcnt, ← hcur, ← hemitted]
  have hx : exec i (s'.beside s) = .next (s'.beside t) := exec_tick_beside hi hcfg (fun _ => by rw [hbuf]) h
  refine ⟨(s'.beside t).setInputs s'.inputs, ?_, ?_⟩
  · calc exec i s' = exec i ((s'.beside s).setInputs s'.inputs) := by rw [hs']
      _ = .next ((s'.beside t).setInputs s'.inputs) := by
          rw [exec_setInputs (hi ▸ nofun), hx, andThen_next]
  · have htcfg : s'.cfg = t.cfg := hcfg.trans (exec_cfg h).symm
    have htbuf : s'.buf = t.buf := hbuf.trans (State.fields_of_busView (exec_tick_busView hi h)).1.symm
    simp only [State.encView, State.setInputs, State.beside, htcfg, htbuf]

/-! ### Commutation with bus events -/

/-- A bus event first: the tick after it reads the byte as it was, so it can be taken before. -/
theorem tick_first {s₁ s₂ : State} (hi : i.agent = some .bus) (hj : j.agent = some .enc)
    (hfree : storeTarget i s ≠ some s.idx.toNat) (h₁ : exec i s = .next s₁) (h₂ : exec j s₁ = .next s₂) :
    exec j s = .next (s.beside s₂) ∧ exec i (s.beside s₂) = .next s₂ := by
  have hs₁ : s₁ = s₁.beside s := exec_bus_eq_beside hi h₁
  have hs : s.beside s₁ = s := by
    rw [hs₁]
    rfl
  obtain ⟨-, -, -, hidx, -⟩ := exec_bus_keeps hi h₁
  have hs₂ : s₂ = s₁.beside s₂ := State.eq_beside_of_busView (exec_tick_busView hj h₂)
  constructor
  · have hx : exec j (s.beside s₁) = .next (s.beside s₂) :=
      exec_tick_beside hj (exec_cfg h₁).symm (fun _ => hidx ▸ (exec_read_of_not_target hfree h₁).symm) h₂
    rwa [hs] at hx
  · rw [hs₂]
    exact exec_bus_beside s₂ hi h₁

/-- A tick first: the bus event after it does not see the cursor, so it can be taken before. -/
theorem bus_first {s₁ s₂ : State} (hi : i.agent = some .bus) (hj : j.agent = some .enc)
    (hfree : storeTarget i s ≠ some s.idx.toNat) (h₁ : exec j s = .next s₁) (h₂ : exec i s₁ = .next s₂) :
    exec i s = .next (s₂.beside s) ∧ exec j (s₂.beside s) = .next s₂ := by
  have hs : s = s₁.beside s := State.eq_beside_of_busView (exec_tick_busView hj h₁).symm
  have hx : exec i s = .next (s₂.beside s) := by
    have h := exec_bus_beside s hi h₂
    rwa [← hs] at h
  refine ⟨hx, ?_⟩
  have hread : (s₂.beside s).buf.read s.idx.toNat = s.buf.read s.idx.toNat := exec_read_of_not_target hfree hx
  have hcfg : s₂.cfg = s.cfg := (exec_cfg h₂).trans (exec_cfg h₁)
  rw [exec_tick_beside hj hcfg (fun _ => hread) h₁, ← exec_bus_eq_beside hi h₂]

/-- Settles O50: either order can be exchanged for the other, with the state between them built from both. -/
theorem busEventAndTickCommute : Obligations.BusEventAndTickCommute := by
  intro i j s s₂ hi hj hfree
  constructor
  · rintro ⟨s₁, h₁, h₂⟩
    exact ⟨_, tick_first hi hj hfree h₁ h₂⟩
  · rintro ⟨s₁, h₁, h₂⟩
    exact ⟨_, bus_first hi hj hfree h₁ h₂⟩

/-! ### A stored byte is seen -/

theorem storeTarget_lt {a : Nat} (h : storeTarget i s = some a) : a < s.cap := by
  cases i with
  | rxDataN b => exact nativeTarget_lt h
  | rxDataC b => exact compatTarget_lt h
  | _ => exact nomatch h

theorem data_answers {b : Byte} (hi : i = .rxDataN b ∨ i = .rxDataC b) : ∃ t, exec i s = .next t := by
  rcases hi with rfl | rfl
  · exact rxDataN_answers b s
  · exact rxDataC_answers b s

theorem group0_eq_ofNat (v : Byte) : group0 v = BitVec.ofNat 2 (v.toNat / 64) :=
  congrArg (BitVec.ofNat 2) (Nat.shiftRight_eq_div_pow v.toNat 6)

/-- The `G0` tick emits the group of the byte that its index reads. -/
theorem exec_encG0_emitted (h : s.idx.toNat < s.cap) :
    ∃ u, exec .encG0 s = .next u ∧
      u.emitted = s.emitted ++ [s.cfg.lut.get (BitVec.ofNat 2 ((s.buf.read s.idx.toNat).toNat / 64))] := by
  refine ⟨_, exec_of_effect ⟨h, rfl⟩, ?_⟩
  rw [State.setEst_emitted, State.pushEmit_emitted, latch_emitted, group0_eq_ofNat]

/-- A byte request in bounds replies the byte at the pointer. -/
theorem exec_txReq_reply (h : s.ptr.toNat < s.cap) :
    ∃ u, exec .txReq s = .next u ∧ u.replies = s.replies ++ [s.buf.read s.ptr.toNat] :=
  ⟨_, exec_of_effect (.inl ⟨h, rfl⟩), rfl⟩

/-- Settles O51: the target is in bounds and reads the stored byte, for the tick and for the request. -/
theorem storedByteIsSeenNext : Obligations.StoredByteIsSeenNext := by
  intro b i s a hi ha
  obtain ⟨t, h⟩ := data_answers (s := s) hi
  obtain ⟨a', p, ha', rfl⟩ | ⟨hn, -⟩ := exec_data_cases hi h
  · obtain rfl : a' = a := Option.some.inj (ha'.symm.trans ha)
    have hlt : a' < s.cap := storeTarget_lt ha
    have hread : (s.buf.write a' b).read a' = b := Memory.read_write_same s.buf a' b
    refine ⟨_, h, hread, fun hidx => ?_, fun q hq => ?_⟩
    · obtain ⟨u, hu, hem⟩ := exec_encG0_emitted (s := (s.setBuf (s.buf.write a' b)).setPtr p) (hidx ▸ hlt)
      refine ⟨u, hu, hem.trans ?_⟩
      rw [State.setPtr_buf, State.setBuf_buf, State.setPtr_idx, State.setBuf_idx, hidx, hread]
      rfl
    · obtain ⟨u, hu, hrep⟩ := exec_txReq_reply (s := (s.setBuf (s.buf.write a' b)).setPtr q) (hq ▸ hlt)
      refine ⟨u, hu, hrep.trans ?_⟩
      rw [State.setPtr_buf, State.setBuf_buf, State.setPtr_ptr, hq, hread]
      rfl
  · exact nomatch hn.symm.trans ha

/-! ### Every tick is answered (R116) -/

/-- The tick code is the one whose role is the encoder's (R67). -/
theorem decodeEvent_agent_enc (c : Context) (e : EventWord) :
    (decodeEvent c e).agent = some .enc ↔ eventCode e = 0b110 := by
  have hx : decodeEvent c e = decode c (.event e) := rfl
  rw [hx]
  induction e using eventWord_induction with
  | h0 d => rw [decode_addrMatchWWord, eventCode_eventWord]; decide
  | h1 d => rw [decode_addrMatchRWord, eventCode_eventWord]; decide
  | h2 d =>
    rw [decode_rxWord, eventCode_eventWord]
    obtain ⟨m, p, est⟩ := c
    refine iff_of_false ?_ (by decide)
    cases m <;> cases p <;> exact nofun
  | h3 d => rw [decode_txReqWord, eventCode_eventWord]; decide
  | h4 d => rw [decode_stopWord, eventCode_eventWord]; decide
  | h5 d => rw [decode_nackWord, eventCode_eventWord]; decide
  | h6 d =>
    rw [decode_tickWord, eventCode_eventWord]
    obtain ⟨m, p, est⟩ := c
    refine iff_of_true ?_ rfl
    cases est <;> rfl
  | h7 d => rw [decode_reservedWord, eventCode_eventWord]; decide

theorem tickCount_cons (e : EventWord) (ws : List Input) :
    tickCount (.event e :: ws) = tickCount ws + if eventCode e = 0b110 then 1 else 0 := by
  simp [tickCount, List.countP_cons]

/-- One event emits one byte if it is a tick, and none otherwise. -/
theorem exec_event_emitted {e : EventWord} (h : exec (decodeEvent s.ctx e) s = .next t) :
    t.emitted.length = s.emitted.length + if eventCode e = 0b110 then 1 else 0 := by
  obtain ⟨-, -, htick, hother⟩ := oneAnswerPerRequest.2.2 _ s t h
  rw [decodeEvent_agent_enc] at htick
  rw [ne_eq, decodeEvent_agent_enc] at hother
  split
  · next hc =>
    obtain ⟨b, hb⟩ := htick hc
    rw [hb, List.length_append, List.length_singleton]
  · next hc => rw [hother hc, Nat.add_zero]

/-- Settles O52: by induction on the run, one event at a time. -/
theorem noUnderrunByConstruction : Obligations.NoUnderrunByConstruction := by
  intro s t ws hws h
  induction ws generalizing s with
  | nil =>
    rw [next_eq h]
    rfl
  | cons w ws ih =>
    obtain ⟨e, rfl⟩ := hws w (by simp)
    rw [feed_cons] at h
    obtain ⟨-, h⟩ := guardConfig_next.mp h
    cases hx : exec (decodeEvent s.ctx e) s with
    | next u =>
      rw [hx, andThen_next] at h
      have hrest : t.emitted.length = u.emitted.length + tickCount ws :=
        ih u (fun w hw => hws w (by simp [hw])) h
      rw [NoUnderrun, hrest, exec_event_emitted hx, tickCount_cons]
      omega
    | fault f => exact nomatch hx ▸ h
    | refused f => exact nomatch hx ▸ h

end Sys2Proof.Machine
end

section
/-! SUPPORT. Whole gaps and passes of the encoder (spec/40_serial_encoder.md R85, R87, R88). -/

namespace Sys2Proof.Machine

variable {s t : State}

/-! ### The gap -/

theorem encRst_goes_on (hlt : s.idx.toNat < s.cap) (htwo : 2 ≤ s.cnt) (hle : s.cnt ≤ s.cfg.resetBytes) :
    Effect .encRst s ((s.pushEmit 0x00).setCnt (s.cnt - 1)) := by
  refine ⟨⟨hlt, by omega, hle⟩, ?_⟩
  rcases countDown_cases (s.pushEmit 0x00) with ⟨-, h⟩ | ⟨hone, -⟩
  · exact h.symm
  · exact absurd hone (Nat.not_le.mpr htwo)

theorem encRst_ends (hlt : s.idx.toNat < s.cap) (hone : s.cnt = 1) (hle : s.cnt ≤ s.cfg.resetBytes) :
    Effect .encRst s ((((s.pushEmit 0x00).setCnt 0).setIdx 0).setEst .g0) := by
  refine ⟨⟨hlt, by omega, hle⟩, ?_⟩
  rcases countDown_cases (s.pushEmit 0x00) with ⟨htwo, -⟩ | ⟨-, h⟩
  · rw [State.pushEmit_cnt] at htwo
    omega
  · exact h.symm

/-- Settles O36: the tick that ends the gap, and the ticks before it. -/
theorem encRstEmitsZero : Obligations.EncRstEmitsZero := by
  intro s hlt hpos hle
  split
  · next hone => exact exec_of_effect (encRst_ends hlt hone hle)
  · exact exec_of_effect (encRst_goes_on hlt (by omega) hle)

/-- The state after the last `n` ticks of a gap. -/
def State.endGap (s : State) (n : Nat) : State :=
  { s with emitted := s.emitted ++ List.replicate n 0x00, cnt := 0, idx := 0, est := .g0 }

/-- The ticks of a gap: one for each count, and the next byte is the first of a pass. -/
theorem feed_gap {n : Nat} (hd : s.cfg.inDomain = true) (hest : s.est = .rst) (hlt : s.idx.toNat < s.cap)
    (hcnt : s.cnt = n + 1) (hle : s.cnt ≤ s.cfg.resetBytes) :
    s.feed (ticks (n + 1)) = .next (s.endGap (n + 1)) := by
  induction n generalizing s with
  | zero => exact feed_tick hd hest (encRst_ends hlt hcnt hle) 0
  | succ n ih =>
    have hmore := feed_tick hd hest (encRst_goes_on hlt (by omega) hle) (n + 1)
    have hrest := ih (s := (s.pushEmit 0x00).setCnt (s.cnt - 1)) hd hest hlt
      (by rw [State.setCnt_cnt]; omega) (by rw [State.setCnt_cnt, State.setCnt_cfg, State.pushEmit_cfg]; omega)
    rw [hmore, hrest]
    simp [State.endGap, State.setCnt, State.pushEmit, List.replicate_succ]

/-- Settles O40: the reset state is at the start of a gap. -/
theorem firstTicksEmitTheGap : Obligations.FirstTicksEmitTheGap := by
  intro c hd
  obtain ⟨hleds, -, hreset⟩ := (inDomain_iff c).mp hd
  obtain ⟨n, hn⟩ : ∃ n, c.resetBytes = n + 1 := ⟨c.resetBytes - 1, by omega⟩
  have hlt : (State.resetOf c).idx.toNat < (State.resetOf c).cap := (inv_resetOf hd).idxBound
  refine ⟨(State.resetOf c).endGap (n + 1), ?_, ?_, rfl, rfl⟩
  · rw [hn]
    exact feed_gap hd rfl hlt hn le_rfl
  · rw [hn]
    exact List.nil_append _

/-! ### The pass -/

theorem passFrom_succ (s : State) (lo n : Nat) :
    passFrom s lo (n + 1) = encodeByte s.cfg.lut (s.buf.read lo) ++ passFrom s (lo + 1) n := by
  simp [passFrom, List.range'_succ]

theorem passFrom_length (s : State) (lo n : Nat) : (passFrom s lo n).length = 4 * n := by
  induction n generalizing lo with
  | zero => rfl
  | succ n ih =>
    rw [passFrom_succ, List.length_append, ih, encodeByte]
    simp only [List.length_cons, List.length_nil]
    omega

/-- The state when more of the buffer is left after a byte: the latch, the four encoded bytes and the index. -/
def State.nextByte (s : State) (c : Byte) : State :=
  { s with cur := c, emitted := s.emitted ++ encodeByte s.cfg.lut (s.buf.read s.idx.toNat), idx := s.idx + 1,
           est := .g0 }

/-- The state at the end of a pass that emitted `bs`, before the gap. -/
def State.endPass (s : State) (c : Byte) (bs : List Byte) : State :=
  { s with cur := c, emitted := s.emitted ++ bs, idx := 0, cnt := s.cfg.resetBytes, est := .rst }

theorem afterByte_more (h : s.idx.toNat + 1 < s.cap) : ∃ c, afterByte s = s.nextByte c := by
  obtain ⟨c, hc⟩ := latch_eq_setCur s (s.buf.read s.idx.toNat)
  refine ⟨c, ?_⟩
  rw [afterByte, hc, advanceByte_eq_ite]
  exact if_pos h

theorem afterByte_last (h : s.cap ≤ s.idx.toNat + 1) :
    ∃ c, afterByte s = s.endPass c (encodeByte s.cfg.lut (s.buf.read s.idx.toNat)) := by
  obtain ⟨c, hc⟩ := latch_eq_setCur s (s.buf.read s.idx.toNat)
  refine ⟨c, ?_⟩
  rw [afterByte, hc, advanceByte_eq_ite]
  exact if_neg (Nat.not_lt.mpr h)

/-- A pass goes on from the next byte. -/
theorem State.endPass_nextByte (s : State) (c c' : Byte) (n : Nat) :
    (s.nextByte c).endPass c' (passFrom (s.nextByte c) (s.idx.toNat + 1) n) =
      s.endPass c' (passFrom s s.idx.toNat (n + 1)) := by
  rw [passFrom_succ s]
  simp [State.endPass, State.nextByte, passFrom]

/-- The ticks from the byte at `idx` to the end of the buffer: four for each byte. -/
theorem feed_pass {n : Nat} (hd : s.cfg.inDomain = true) (hest : s.est = .g0) (hidx : s.idx.toNat + (n + 1) = s.cap)
    (m : Nat) : ∃ c, s.feed (ticks (m + 4 * (n + 1))) =
      (s.endPass c (passFrom s s.idx.toNat (n + 1))).feed (ticks m) := by
  induction n generalizing s with
  | zero =>
    obtain ⟨c, hc⟩ := afterByte_last (s := s) (by omega)
    refine ⟨c, (feed_fourTicks hd (by omega) hest m).trans ?_⟩
    rw [hc, passFrom_succ]
    exact congrArg (fun bs => (s.endPass c bs).feed (ticks m)) (List.append_nil _).symm
  | succ n ih =>
    obtain ⟨c, hc⟩ := afterByte_more (s := s) (by omega)
    have hnext : (s.nextByte c).idx.toNat = s.idx.toNat + 1 := by
      have hcap := ((inDomain_iff s.cfg).mp hd).2.1
      rw [State.cap_eq] at hidx
      exact half_succ_toNat (by omega)
    have hleft : (s.nextByte c).idx.toNat + (n + 1) = (s.nextByte c).cap := by
      rw [hnext, Nat.add_assoc, Nat.add_comm 1]
      exact hidx
    obtain ⟨c', hrest⟩ := ih (s := s.nextByte c) hd rfl hleft
    refine ⟨c', ?_⟩
    calc s.feed (ticks (m + 4 * (n + 2)))
        = (afterByte s).feed (ticks (m + 4 * (n + 1))) := feed_fourTicks hd (by omega) hest (m + 4 * (n + 1))
      _ = (s.endPass c' (passFrom s s.idx.toNat (n + 2))).feed (ticks m) := by
          rw [hc, hrest, hnext, State.endPass_nextByte]

/-- Settles O39: the pass from index 0 to the end of the buffer, then the gap. -/
theorem scanPeriodEmitsBufferThenGap : Obligations.ScanPeriodEmitsBufferThenGap := by
  intro s hs hest hidx
  obtain ⟨n, hn⟩ : ∃ n, s.cap = n + 1 := ⟨s.cap - 1, (Nat.sub_add_cancel hs.cap_pos).symm⟩
  have hreset := ((inDomain_iff s.cfg).mp hs.domain).2.2
  obtain ⟨k, hk⟩ : ∃ k, s.cfg.resetBytes = k + 1 := ⟨s.cfg.resetBytes - 1, (Nat.sub_add_cancel hreset).symm⟩
  have hzero : s.idx.toNat = 0 := by rw [hidx]; rfl
  obtain ⟨c, hpass⟩ := feed_pass (n := n) hs.domain hest (by omega) (k + 1)
  have hgap : (s.endPass c (passBytes s)).feed (ticks (k + 1)) = .next ((s.endPass c (passBytes s)).endGap (k + 1)) :=
    feed_gap (s := s.endPass c (passBytes s)) hs.domain rfl hs.cap_pos hk le_rfl
  refine ⟨(s.endPass c (passBytes s)).endGap (k + 1), ?_, ?_, passFrom_length s 0 s.cap, rfl, rfl, rfl, rfl, rfl, rfl,
    rfl⟩
  · rw [hzero, ← hn] at hpass
    rw [Nat.add_comm, hk, hpass]
    exact hgap
  · rw [hk]
    rfl

end Sys2Proof.Machine
end

section
/-! SUPPORT. A table made of two symbols (spec/30_encoding.md R73). -/

namespace Sys2Proof

/-- The table is made of two 4-bit symbols, the high nibble for the more significant bit of the group. -/
def Lut.MadeOf (l : Lut) (sym0 sym1 : BitVec 4) : Prop :=
  ∀ g : BitVec 2, l.get g = (if g.getLsbD 1 then sym1 else sym0) ++ (if g.getLsbD 0 then sym1 else sym0)

/-- The four entries of such a table. -/
theorem Lut.madeOf_iff (l : Lut) (sym0 sym1 : BitVec 4) : l.MadeOf sym0 sym1 ↔
    l.e0 = sym0 ++ sym0 ∧ l.e1 = sym0 ++ sym1 ∧ l.e2 = sym1 ++ sym0 ∧ l.e3 = sym1 ++ sym1 := by
  constructor
  · intro h
    exact ⟨h 0, h 1, h 2, h 3⟩
  · rintro ⟨h0, h1, h2, h3⟩ g
    obtain rfl | rfl | rfl | rfl : g = 0 ∨ g = 1 ∨ g = 2 ∨ g = 3 := by
      revert g
      decide
    exacts [h0, h1, h2, h3]

/-- The two symbols of a table are the ones the model takes from its first and last entries. -/
theorem Lut.MadeOf.syms {l : Lut} {sym0 sym1 : BitVec 4} (h : l.MadeOf sym0 sym1) :
    l.sym0 = sym0 ∧ l.sym1 = sym1 := by
  obtain ⟨h0, -, -, h3⟩ := (Lut.madeOf_iff l sym0 sym1).mp h
  rw [Lut.sym0, Lut.sym1, h0, h3]
  exact ⟨BitVec.extractLsb'_append_eq_right, BitVec.extractLsb'_append_eq_right⟩

theorem Lut.structured_iff (l : Lut) : l.structured = true ↔
    l.MadeOf l.sym0 l.sym1 ∧ l.sym0.getLsbD 3 = true ∧ l.sym1.getLsbD 3 = true := by
  rw [Lut.madeOf_iff]
  simp [Lut.structured, and_assoc]

end Sys2Proof
end

section
/-! SUPPORT. The output line and the high shares of a table (spec/30_encoding.md R73, R74), and the scan period in bit
times (spec/70_reset_and_hazards.md R142). -/

namespace Sys2Proof.Machine

/-! ### The line (R74) -/

@[simp] theorem lineBits_length (b : Byte) : (lineBits b).length = 8 := rfl

/-- Each byte takes eight bit times on the line. -/
@[simp] theorem lineOf_length (bs : List Byte) : (lineOf bs).length = 8 * bs.length := by
  induction bs with
  | nil => rfl
  | cons b bs ih =>
    rw [lineOf, List.flatMap_cons, List.length_append, lineBits_length, List.length_cons]
    rw [lineOf] at ih
    omega

/-- Zero bytes hold the line low. -/
theorem lineOf_zeros (n : Nat) : lineOf (List.replicate n 0x00) = List.replicate (8 * n) false := by
  have hzero : lineBits 0x00 = List.replicate 8 false := by decide
  rw [lineOf, List.flatMap_replicate, hzero, List.flatten_replicate_replicate, Nat.mul_comm]

/-- Settles O58: the eight positions of a byte, its length, and the line of a gap. -/
theorem lineShiftsMostSignificantFirst : Obligations.LineShiftsMostSignificantFirst := by
  refine ⟨fun b k hk => ?_, lineBits_length, fun c => lineOf_zeros c.resetBytes⟩
  interval_cases k <;> rfl

/-- Settles O60: every byte takes eight bit times, and a pass and a gap are as many bytes as they are. -/
theorem scanPeriodInBitTimes : Obligations.ScanPeriodInBitTimes := by
  refine ⟨fun s => ?_, by decide, by decide⟩
  have hpass : (passBytes s).length = 4 * s.cfg.cap := passFrom_length s 0 s.cap
  have hgap : (gapBytes s.cfg).length = s.cfg.resetBytes := List.length_replicate
  refine ⟨?_, ?_, ?_, rfl, rfl, rfl⟩
  · rw [lineOf_length, hpass, passBits]
    omega
  · rw [lineOf_length, hgap, gapBits]
  · rw [lineOf_length, List.length_append, hpass, hgap, scanBits]
    omega

/-! ### The high shares (R73) -/

/-- One bit time of four is about a third, and three are about two thirds (log 13). -/
theorem aboutThirds_one (sym : BitVec 4) : aboutThirds 1 sym = true ↔ highBits sym = 1 := by
  simp only [aboutThirds, Bool.and_eq_true, decide_eq_true_eq]
  omega

theorem aboutThirds_two (sym : BitVec 4) : aboutThirds 2 sym = true ↔ highBits sym = 3 := by
  simp only [aboutThirds, Bool.and_eq_true, decide_eq_true_eq]
  omega

theorem lutEncodesBits_iff (l : Lut) : lutEncodesBits l = true ↔
    l.structured = true ∧ highBits l.sym0 = 1 ∧ highBits l.sym1 = 3 := by
  rw [lutEncodesBits, lutRatios, Bool.and_eq_true, Bool.and_eq_true, aboutThirds_one, aboutThirds_two]

/-- Settles O59: a table that passes the check is made of its own two symbols, and of no others. -/
theorem tableIsTwoSymbols : Obligations.TableIsTwoSymbols := by
  refine ⟨by decide, fun l hl => ?_, by decide, fun l => ⟨fun hl => ?_, ?_⟩⟩
  · obtain ⟨hmade, h0, h1⟩ := l.structured_iff.mp hl
    exact ⟨l.sym0, l.sym1, h0, h1, hmade⟩
  · obtain ⟨hs, hhigh0, hhigh1⟩ := (lutEncodesBits_iff l).mp hl
    obtain ⟨hmade, h0, h1⟩ := l.structured_iff.mp hs
    exact ⟨l.sym0, l.sym1, h0, h1, hhigh0, hhigh1, hmade⟩
  · rintro ⟨sym0, sym1, h0, h1, hhigh0, hhigh1, hmade⟩
    obtain ⟨rfl, rfl⟩ := Lut.MadeOf.syms hmade
    exact (lutEncodesBits_iff l).mpr ⟨l.structured_iff.mpr ⟨hmade, h0, h1⟩, hhigh0, hhigh1⟩

end Sys2Proof.Machine
end

section
/-! SUPPORT. The events that the bus controller derives from a transaction (spec/30_encoding.md R63, R66). -/

namespace Sys2Proof.Machine

/-- Until the next start, what follows another address gives no event. -/
theorem wireEvents_unselected (ts : List Token) (h : ∀ t ∈ ts, (∀ a, t ≠ .start a) ∧ ∀ k, t ≠ .tick k) :
    wireEvents none ts = [] := by
  induction ts with
  | nil => rfl
  | cons t ts ih =>
    obtain ⟨hstart, htick⟩ := h t (by simp)
    have hrest : wireEvents none ts = [] := ih fun u hu => h u (by simp [hu])
    cases t with
    | start a => exact absurd rfl (hstart a)
    | tick k => exact absurd rfl (htick k)
    | _ => exact hrest

/-- Settles O17: the other address leaves the block unselected, and raises no event itself. -/
theorem otherAddressReachesNothing : Obligations.OtherAddressReachesNothing := by
  intro sel b ts hw hr h
  have hsel : selects b = none := by rw [selects, isSlaveAddrByte_of_ne hw hr]; rfl
  rw [wireEvents, tokenEvents, hsel]
  exact wireEvents_unselected ts h

theorem wireEvents_start (sel : Option Dir) (d : Dir) (ts : List Token) :
    wireEvents sel (.start (addrByte d) :: ts) = .event (matchEvent d) :: wireEvents (some d) ts := by
  cases d <;> rfl

theorem wireEvents_sends (bs : List Byte) (ts : List Token) :
    wireEvents (some .w) (bs.map .send ++ ts) = bs.map rxEvent ++ wireEvents (some .w) ts := by
  induction bs with
  | nil => rfl
  | cons b bs ih => exact congrArg (rxEvent b :: ·) ih

theorem wireEvents_reads (n : Nat) (ts : List Token) :
    wireEvents (some .r) (readTokens (n + 1) ++ ts) =
      List.replicate (n + 1) txReqEvent ++ nackEvent :: wireEvents (some .r) ts := by
  have hreads : readTokens (n + 1) = List.replicate n .rd ++ [.rdLast] := rfl
  rw [hreads]
  induction n with
  | zero => rfl
  | succ n ih => exact congrArg (txReqEvent :: ·) (ih rfl)

/-- The events of a write transaction, whatever the bytes it sends are. -/
theorem wireEvents_write (sel : Option Dir) (bs : List Byte) (ts : List Token) :
    wireEvents sel (.start (addrByte .w) :: (bs.map .send ++ .stop :: ts)) =
      .event (matchEvent .w) :: (bs.map rxEvent ++ stopEvent :: wireEvents none ts) := by
  rw [wireEvents_start, wireEvents_sends]
  rfl

/-- A native write sends the low address byte, the high one and the data (R64, R78). -/
theorem wireEvents_wr16 (sel : Option Dir) (a : Half) (ds : List Byte) (ts : List Token) :
    wireEvents sel (wr16 a ds ++ ts) = .event (matchEvent .w) ::
      ((lowByte a :: highByte a :: ds).map rxEvent ++ stopEvent :: wireEvents none ts) := by
  rw [← wireEvents_write sel, wr16, addrPhase16]
  simp

/-- A compatible write sends the legacy address and the data (R78). -/
theorem wireEvents_wr8 (sel : Option Dir) (a : Byte) (ds : List Byte) (ts : List Token) :
    wireEvents sel (wr8 a ds ++ ts) = .event (matchEvent .w) ::
      ((a :: ds).map rxEvent ++ stopEvent :: wireEvents none ts) := by
  rw [← wireEvents_write sel, wr8]
  simp

/-- A page selection is a compatible write to the page-select register (R78). -/
theorem pagesel_eq_wr8 (c : Config) (pg : Byte) : pagesel c pg = wr8 c.pageSel [pg] := rfl

/-- The events of a read from where the pointer is (R78). -/
theorem wireEvents_rdFrom (sel : Option Dir) (n : Nat) : wireEvents sel (rdFrom (n + 1)) =
    .event (matchEvent .r) :: (List.replicate (n + 1) txReqEvent ++ [nackEvent, stopEvent]) := by
  have hread : rdFrom (n + 1) = .start (addrByte .r) :: (readTokens (n + 1) ++ [.stop]) := rfl
  rw [hread, wireEvents_start, wireEvents_reads]
  rfl

/-- A read from a native address is its address phase and a read from where the pointer is (R78). -/
theorem wireEvents_rd16 (sel : Option Dir) (a : Half) (n : Nat) :
    wireEvents sel (rd16 a n) = .event (matchEvent .w) ::
      ([lowByte a, highByte a].map rxEvent ++ wireEvents (some .w) (rdFrom n)) := by
  have hread : rd16 a n = .start (addrByte .w) :: ([lowByte a, highByte a].map .send ++ rdFrom n) := rfl
  rw [hread, wireEvents_start, wireEvents_sends]

end Sys2Proof.Machine
end

section
/-! SUPPORT. Runs of event words, one event at a time, and the reads of a read transaction (spec/41_bus_slave.md
sections 1, 4 and 7). -/

namespace Sys2Proof.Machine

variable {i : Instr} {s t : State}

/-! ### One event of a run -/

/-- One event of a run: the effect of its role, then the events that follow. -/
theorem feed_event {e : EventWord} (hd : s.cfg.inDomain = true) (hrole : decode s.ctx (.event e) = i)
    (h : Effect i s t) (ws : List Input) : s.feed (.event e :: ws) = t.feed ws := by
  subst hrole
  have hx : exec (decodeEvent s.ctx e) s = .next t := exec_of_effect h
  rw [feed_cons, hx, andThen_next]
  exact if_pos hd

theorem feed_rx {m : Mode} {p : Phase} {b : Byte} (hd : s.cfg.inDomain = true) (hm : s.cfg.mode = m)
    (hp : s.phase = p) (h : Effect (decodeRx m p b) s t) (ws : List Input) :
    s.feed (rxEvent b :: ws) = t.feed ws := feed_event hd (decode_rxWord_of_role hm hp b) h ws

theorem feed_stop (hd : s.cfg.inDomain = true) (ws : List Input) : s.feed (stopEvent :: ws) = s.feed ws :=
  feed_event (i := .stop) hd (decode_stopWord _ _) rfl ws

theorem feed_nack (hd : s.cfg.inDomain = true) (ws : List Input) : s.feed (nackEvent :: ws) = s.feed ws :=
  feed_event (i := .nack) hd (decode_nackWord _ _) rfl ws

theorem feed_addrMatchW (hd : s.cfg.inDomain = true) (ws : List Input) :
    s.feed (.event (matchEvent .w) :: ws) = (((s.setPhase .addr).setPtr 0x0000).setPage (matchedPage s)).feed ws :=
  feed_event (i := .addrMatchW) hd (decode_addrMatchWWord _ _)
    (matchPage_eq_setPage_matchedPage ((s.setPhase .addr).setPtr 0x0000)).symm ws

theorem feed_addrMatchR (hd : s.cfg.inDomain = true) (ws : List Input) :
    s.feed (.event (matchEvent .r) :: ws) =
      (((s.setPhase .addr).setPtr (if s.cfg.ptrOnReadMatch = .clear then 0x0000 else s.ptr)).setPage
        (matchedPage s)).feed ws := by
  refine feed_event (i := .addrMatchR) hd (decode_addrMatchRWord _ _) ?_ ws
  rw [Effect, matchReadPtr_eq_ite, matchPage_eq_setPage_matchedPage]
  rfl

/-! ### Byte requests -/

/-- The byte that a request at pointer `a` returns: zero out of bounds (R95). -/
def State.byteAt (s : State) (a : Nat) : Byte := if a < s.cap then s.buf.read a else 0x00

/-- The state after `n` byte requests: the pointer stays once it is out of bounds (R102). -/
def State.afterReads (s : State) (n : Nat) : State :=
  { s with replies := s.replies ++ (List.range n).map fun k => s.byteAt (s.ptr.toNat + k)
           ptr := BitVec.ofNat 16 (max s.ptr.toNat (min (s.ptr.toNat + n) s.cap)) }

theorem cap_lt_of_inDomain (hd : s.cfg.inDomain = true) : s.cap < 65536 :=
  Nat.lt_succ_of_le ((inDomain_iff s.cfg).mp hd).2.1

theorem State.afterReads_ptr (hd : s.cfg.inDomain = true) (n : Nat) :
    (s.afterReads n).ptr.toNat = max s.ptr.toNat (min (s.ptr.toNat + n) s.cap) := by
  have hcap := cap_lt_of_inDomain hd
  have hptr := s.ptr.isLt
  rw [State.afterReads, BitVec.toNat_ofNat]
  omega

@[simp] theorem State.afterReads_zero (s : State) : s.afterReads 0 = s := by
  simp [State.afterReads]

theorem State.afterReads_succ (s : State) (n : Nat) :
    s.afterReads (n + 1) =
      ((s.afterReads n).pushReply (s.byteAt (s.ptr.toNat + n))).setPtr (s.afterReads (n + 1)).ptr := by
  simp [State.afterReads, State.pushReply, State.setPtr, List.range_succ]

/-- One more request, at the pointer where the requests before it left it. -/
theorem txReq_afterReads (hd : s.cfg.inDomain = true) (hw : s.ptr.toNat < s.cap → s.cap < 2 ^ s.cfg.ptrWidth)
    (n : Nat) : Effect .txReq (s.afterReads n) (s.afterReads (n + 1)) := by
  have hptr := State.afterReads_ptr hd n
  have hptr' := State.afterReads_ptr hd (n + 1)
  rw [State.afterReads_succ]
  rcases Nat.lt_or_ge (s.ptr.toNat + n) s.cap with hlt | hge
  · have hat : (s.afterReads n).ptr.toNat = s.ptr.toNat + n := by omega
    have hbyte : s.byteAt (s.ptr.toNat + n) = (s.afterReads n).buf.read (s.afterReads n).ptr.toNat := by
      rw [hat]
      exact if_pos hlt
    have hnext : (s.afterReads (n + 1)).ptr = inc s.cfg (s.afterReads n).ptr := by
      have hwrap := hw (by omega)
      apply BitVec.eq_of_toNat_eq
      rw [inc_toNat_of_lt (by omega)]
      omega
    refine .inl ⟨hat ▸ hlt, ?_⟩
    rw [hbyte, hnext]
    rfl
  · have hbyte : s.byteAt (s.ptr.toNat + n) = 0x00 := if_neg (Nat.not_lt.mpr hge)
    have hstay : (s.afterReads (n + 1)).ptr = (s.afterReads n).ptr := by
      apply BitVec.eq_of_toNat_eq
      omega
    have hout : s.cap ≤ (s.afterReads n).ptr.toNat := by omega
    refine .inr ⟨hout, ?_⟩
    rw [hbyte, hstay]
    rfl

/-- A run of byte requests, with a pointer that does not wrap inside the buffer. -/
theorem feed_txReqs (hd : s.cfg.inDomain = true) (hw : s.ptr.toNat < s.cap → s.cap < 2 ^ s.cfg.ptrWidth) (n : Nat)
    (ws : List Input) : s.feed (List.replicate n txReqEvent ++ ws) = (s.afterReads n).feed ws := by
  induction n generalizing ws with
  | zero =>
    rw [State.afterReads_zero]
    rfl
  | succ n ih =>
    rw [List.replicate_succ', List.append_assoc, ih]
    exact feed_event (s := s.afterReads n) hd (decode_txReqWord _ _) (txReq_afterReads hd hw n) ws

/-! ### Out of bounds (R102) -/

theorem feed_rxDataN_out (hd : s.cfg.inDomain = true) (hm : s.cfg.mode = .native) (hp : s.phase = .data)
    (hout : s.cap ≤ s.ptr.toNat) (bs : List Byte) : s.feed (bs.map rxEvent) = .next s := by
  induction bs with
  | nil => rfl
  | cons b bs ih => exact (feed_rx hd hm hp (.inr ⟨nativeTarget_none hout, rfl⟩) _).trans ih

/-- Requests out of bounds return zeros and leave the pointer. -/
theorem State.afterReads_out (hout : s.cap ≤ s.ptr.toNat) (n : Nat) :
    s.afterReads n = { s with replies := s.replies ++ List.replicate n 0x00 } := by
  have hzeros : ((List.range n).map fun k => s.byteAt (s.ptr.toNat + k)) = List.replicate n 0x00 := by
    rw [List.eq_replicate_iff]
    refine ⟨by simp, fun b hb => ?_⟩
    obtain ⟨k, -, rfl⟩ := List.mem_map.mp hb
    exact if_neg (by omega)
  have hptr : max s.ptr.toNat (min (s.ptr.toNat + n) s.cap) = s.ptr.toNat := by omega
  rw [State.afterReads, hzeros, hptr, BitVec.ofNat_toNat, BitVec.setWidth_eq]

/-- Settles O53: data bytes by induction, requests by what they return out of bounds. -/
theorem outOfBoundsIsInert : Obligations.OutOfBoundsIsInert := by
  refine ⟨fun s bs hd hm hp hout => feed_rxDataN_out hd hm hp hout bs, fun s n hd hout => ?_⟩
  have hfeed := feed_txReqs hd (fun hlt => absurd hlt (Nat.not_lt.mpr hout)) n []
  rwa [List.append_nil, State.afterReads_out hout] at hfeed

/-! ### Read transactions -/

/-- The state after an address match that leaves pointer 0. -/
def State.matchedAtZero (s : State) : State := ((s.setPhase .addr).setPtr 0x0000).setPage (matchedPage s)

/-- A read from offset 0: the address match leaves the pointer there, and the requests follow. -/
theorem feed_rdFrom_zero (hd : s.cfg.inDomain = true) (hptr : s.cfg.ptrOnReadMatch = .clear ∨ s.ptr = 0x0000)
    (hw : s.cap < 2 ^ s.cfg.ptrWidth) (n : Nat) (sel : Option Dir) :
    s.feed (wireEvents sel (rdFrom (n + 1))) = .next (s.matchedAtZero.afterReads (n + 1)) := by
  have hzero : (if s.cfg.ptrOnReadMatch = .clear then (0x0000 : Half) else s.ptr) = 0x0000 := by
    rcases hptr with h | h
    · exact if_pos h
    · rw [h, ite_self]
  calc s.feed (wireEvents sel (rdFrom (n + 1)))
      = s.matchedAtZero.feed (List.replicate (n + 1) txReqEvent ++ [nackEvent, stopEvent]) := by
        rw [wireEvents_rdFrom, feed_addrMatchR hd, hzero]
        rfl
    _ = (s.matchedAtZero.afterReads (n + 1)).feed [nackEvent, stopEvent] :=
        feed_txReqs (s := s.matchedAtZero) hd (fun _ => hw) (n + 1) _
    _ = (s.matchedAtZero.afterReads (n + 1)).feed [stopEvent] :=
        feed_nack (s := s.matchedAtZero.afterReads (n + 1)) hd _
    _ = .next (s.matchedAtZero.afterReads (n + 1)) :=
        feed_stop (s := s.matchedAtZero.afterReads (n + 1)) hd []

/-- What is read from offset 0 are the bytes at the offsets from 0. -/
theorem State.matchedAtZero_reads (s : State) (n : Nat) :
    (s.matchedAtZero.afterReads n).replies = s.replies ++ (List.range n).map s.byteAt := by
  have hoffset (k : Nat) : s.matchedAtZero.byteAt (s.matchedAtZero.ptr.toNat + k) = s.byteAt k :=
    congrArg s.byteAt (Nat.zero_add k)
  simp only [State.afterReads, hoffset]
  rfl

/-- Settles O54: the requests from pointer 0, each at its own offset. -/
theorem readTransactionStartsAtZero : Obligations.ReadTransactionStartsAtZero := by
  intro s n hs hclear hw hn
  obtain ⟨k, rfl⟩ : ∃ k, n = k + 1 := ⟨n - 1, by omega⟩
  refine ⟨_, feed_rdFrom_zero hs.domain (.inl hclear) hw k none, State.matchedAtZero_reads s (k + 1), rfl, rfl, ?_⟩
  calc (s.matchedAtZero.afterReads (k + 1)).ptr.toNat
      = max 0 (min (0 + (k + 1)) s.cap) := State.afterReads_ptr (s := s.matchedAtZero) hs.domain (k + 1)
    _ = min (k + 1) s.cap := by omega

end Sys2Proof.Machine
end

section
/-! SUPPORT. Write transactions: a native pattern stored and read back (spec/41_bus_slave.md section 7), and the
compatible bytes of a pixel and under a closed page (spec/42_remap_shim.md section 5). -/

namespace Sys2Proof.Machine

variable {s : State}

/-! ### A pattern in the buffer -/

/-- The memory with the bytes `ds` written from offset `a`. -/
def Memory.writeFrom (m : Memory) (a : Nat) : List Byte → Memory
  | [] => m
  | d :: ds => Memory.writeFrom (m.write a d) (a + 1) ds

/-- The bytes below the pattern stay. -/
theorem Memory.read_writeFrom_below (m : Memory) {a j : Nat} (ds : List Byte) (h : j < a) :
    (m.writeFrom a ds).read j = m.read j := by
  induction ds generalizing m a with
  | nil => rfl
  | cons d ds ih =>
    calc ((m.write a d).writeFrom (a + 1) ds).read j = (m.write a d).read j := ih (m.write a d) (Nat.lt_succ_of_lt h)
      _ = m.read j := Memory.read_write_other m d (Nat.ne_of_lt h)

/-- The pattern is what its offsets read. -/
theorem Memory.map_read_writeFrom (m : Memory) (a : Nat) (ds : List Byte) :
    (List.range' a ds.length).map (m.writeFrom a ds).read = ds := by
  induction ds generalizing m a with
  | nil => rfl
  | cons d ds ih =>
    have hfirst : ((m.write a d).writeFrom (a + 1) ds).read a = d := by
      rw [Memory.read_writeFrom_below _ ds (Nat.lt_succ_self a), Memory.read_write_same]
    rw [List.length_cons, List.range'_succ, List.map_cons, Memory.writeFrom, hfirst, ih]

/-! ### Native writes -/

/-- The state with the bytes `ds` stored from the pointer on. -/
def State.storeAll (s : State) (ds : List Byte) : State :=
  { s with buf := s.buf.writeFrom s.ptr.toNat ds, ptr := s.ptr + BitVec.ofNat 16 ds.length }

/-- The first byte, then the others from the next offset. -/
theorem State.storeAll_cons (d : Byte) (ds : List Byte) (h : s.ptr.toNat + 1 < 65536) :
    ((s.setBuf (s.buf.write s.ptr.toNat d)).setPtr (s.ptr + 1)).storeAll ds = s.storeAll (d :: ds) := by
  have hlen : s.ptr + 1 + BitVec.ofNat 16 ds.length = s.ptr + BitVec.ofNat 16 (ds.length + 1) := by
    rw [BitVec.add_assoc, Nat.add_comm, BitVec.ofNat_add]
    rfl
  simp only [State.storeAll, State.setBuf, State.setPtr, Memory.writeFrom, List.length_cons, half_succ_toNat h, hlen]

/-- Native data bytes in bounds are stored from the pointer on (R94). -/
theorem feed_rxDataN (hd : s.cfg.inDomain = true) (hm : s.cfg.mode = .native) (hp : s.phase = .data) (ds : List Byte)
    (hlen : s.ptr.toNat + ds.length ≤ s.cap) (ws : List Input) :
    s.feed (ds.map rxEvent ++ ws) = (s.storeAll ds).feed ws := by
  induction ds generalizing s with
  | nil => simp [State.storeAll, Memory.writeFrom]
  | cons d ds ih =>
    rw [List.length_cons] at hlen
    have hcap := cap_lt_of_inDomain hd
    have hnext : (s.ptr + 1).toNat = s.ptr.toNat + 1 := half_succ_toNat (by omega)
    let s₁ := (s.setBuf (s.buf.write s.ptr.toNat d)).setPtr (s.ptr + 1)
    have hleft : s₁.ptr.toNat + ds.length ≤ s₁.cap := by
      change (s.ptr + 1).toNat + ds.length ≤ s.cap
      omega
    calc s.feed (rxEvent d :: (ds.map rxEvent ++ ws))
        = s₁.feed (ds.map rxEvent ++ ws) :=
          feed_rx hd hm hp (.inl ⟨s.ptr.toNat, nativeTarget_some.mpr ⟨by omega, rfl⟩, rfl⟩) _
      _ = (s₁.storeAll ds).feed ws := ih (s := s₁) hd hm hp hleft
      _ = (s.storeAll (d :: ds)).feed ws := by rw [State.storeAll_cons d ds (by omega)]

/-- The state after the address phase of a native write to offset 0. -/
def State.addressedAtZero (s : State) : State := ((s.setPage (matchedPage s)).setPtr 0x0000).setPhase .data

/-- The address phase of a native write to offset 0 (R46). -/
theorem feed_addressZero (hd : s.cfg.inDomain = true) (hm : s.cfg.mode = .native) (ws : List Input) :
    s.feed (.event (matchEvent .w) :: ([lowByte 0, highByte 0].map rxEvent ++ ws)) = s.addressedAtZero.feed ws := by
  let s₁ := ((s.setPhase .addr).setPtr 0x0000).setPage (matchedPage s)
  let s₂ := (s₁.setPtr (ptrOfByte (lowByte 0))).setPhase .addrHi
  have hzero : ptrOfHigh (highByte 0) (ptrOfByte (lowByte 0)) = 0x0000 := by decide
  have hhigh : Effect (decodeRx .native .addrHi (highByte 0)) s₂ s.addressedAtZero := by
    change _ = (s₂.setPtr (ptrOfHigh (highByte 0) (ptrOfByte (lowByte 0)))).setPhase .data
    rw [hzero]
    rfl
  calc s.feed (.event (matchEvent .w) :: rxEvent (lowByte 0) :: rxEvent (highByte 0) :: ws)
      = s₁.feed (rxEvent (lowByte 0) :: rxEvent (highByte 0) :: ws) := feed_addrMatchW hd _
    _ = s₂.feed (rxEvent (highByte 0) :: ws) := feed_rx (s := s₁) hd hm rfl rfl _
    _ = s.addressedAtZero.feed ws := feed_rx (s := s₂) hd hm rfl hhigh ws

/-- The state after a native write of `ds` from offset 0. -/
def State.wroteAtZero (s : State) (ds : List Byte) : State := s.addressedAtZero.storeAll ds

theorem feed_wr16_zero (hd : s.cfg.inDomain = true) (hm : s.cfg.mode = .native) {ds : List Byte}
    (hlen : ds.length ≤ s.cap) (ts : List Token) :
    s.feed (eventsOf (wr16 0 ds ++ ts)) = (s.wroteAtZero ds).feed (wireEvents none ts) := by
  have hfit : s.addressedAtZero.ptr.toNat + ds.length ≤ s.addressedAtZero.cap := (Nat.zero_add _).symm ▸ hlen
  calc s.feed (eventsOf (wr16 0 ds ++ ts))
      = s.addressedAtZero.feed (ds.map rxEvent ++ stopEvent :: wireEvents none ts) := by
        rw [eventsOf, wireEvents_wr16]
        exact feed_addressZero hd hm _
    _ = (s.wroteAtZero ds).feed (stopEvent :: wireEvents none ts) :=
        feed_rxDataN (s := s.addressedAtZero) hd hm rfl ds hfit _
    _ = (s.wroteAtZero ds).feed (wireEvents none ts) := feed_stop (s := s.wroteAtZero ds) hd _

/-- The pattern is what a read of as many bytes from offset 0 returns. -/
theorem State.wroteAtZero_reads (s : State) {ds : List Byte} (hlen : ds.length ≤ s.cap) :
    (List.range ds.length).map (s.wroteAtZero ds).byteAt = ds := by
  have hin : (List.range ds.length).map (s.wroteAtZero ds).byteAt =
      (List.range' 0 ds.length).map (s.wroteAtZero ds).buf.read := by
    rw [← List.range_eq_range']
    exact List.map_congr_left fun k hk => if_pos (lt_of_lt_of_le (List.mem_range.mp hk) hlen)
  exact hin.trans (Memory.map_read_writeFrom s.buf 0 ds)

/-- Settles O55: the write, then the read from offset 0 that either parameter gives. -/
theorem nativeRoundTrip : Obligations.NativeRoundTrip := by
  intro s ds hs hm hpos hlen
  obtain ⟨k, hk⟩ : ∃ k, ds.length = k + 1 := ⟨ds.length - 1, by omega⟩
  have hw : s.cap < 2 ^ s.cfg.ptrWidth := by
    rw [ptrWidth_of_native hm]
    exact cap_lt_of_inDomain hs.domain
  have hreads := s.wroteAtZero_reads hlen
  refine ⟨fun hclear => ?_, fun hkeep => ?_⟩
  · have hread := feed_rdFrom_zero (s := s.wroteAtZero ds) hs.domain (.inl hclear) hw k none
    refine ⟨_, (feed_wr16_zero hs.domain hm hlen _).trans (hk ▸ hread), ?_⟩
    rw [State.matchedAtZero_reads, hreads]
    rfl
  · have hread := feed_rdFrom_zero (s := (s.wroteAtZero ds).addressedAtZero) hs.domain (.inr rfl) hw k (some .w)
    have haddr := feed_addressZero (s := s.wroteAtZero ds) hs.domain hm (wireEvents (some .w) (rdFrom (k + 1)))
    rw [← wireEvents_rd16 none, hread] at haddr
    refine ⟨_, (feed_wr16_zero hs.domain hm hlen _).trans (hk ▸ haddr), ?_⟩
    rw [State.matchedAtZero_reads]
    exact congrArg (s.replies ++ ·) hreads

/-! ### Compatible writes -/

/-- The state after the address phase of a compatible write to `a` (R105). -/
def State.addressedLegacy (s : State) (a : Byte) : State :=
  ((s.setPage (matchedPage s)).setPtr (ptrOfByte a)).setPhase (if a = s.cfg.pageSel then .page else .data)

theorem feed_legacyAddress (hd : s.cfg.inDomain = true) (hm : s.cfg.mode = .compat) (a : Byte) (ws : List Input) :
    s.feed (.event (matchEvent .w) :: rxEvent a :: ws) = (s.addressedLegacy a).feed ws := by
  let s₁ := ((s.setPhase .addr).setPtr 0x0000).setPage (matchedPage s)
  calc s.feed (.event (matchEvent .w) :: rxEvent a :: ws)
      = s₁.feed (rxEvent a :: ws) := feed_addrMatchW hd _
    _ = (s.addressedLegacy a).feed ws := feed_rx (s := s₁) hd hm rfl rfl ws

/-- A legacy address `k` above `COLOR_BASE` has the target `remap k` (R109). -/
theorem compatTarget_of_offset {k : Nat} (hpage : s.page = 0x00) (hptr : s.ptr.toNat = s.cfg.colorBase.toNat + k)
    (hk : k < s.cap) : compatTarget s = some (remap k) := by
  have hsub : s.ptr.toNat - s.cfg.colorBase.toNat = k := by omega
  refine compatTarget_some.mpr ⟨hpage, by omega, ?_, ?_⟩
  · rw [hsub, remap_lt_cap]
    exact hk
  · rw [hsub]

/-- The state with a compatible byte stored at offset `a`. -/
def State.storeLegacy (s : State) (a : Nat) (b : Byte) : State :=
  (s.setBuf (s.buf.write a b)).setPtr (inc s.cfg s.ptr)

/-- A compatible data byte under page 0, `k` above `COLOR_BASE`. -/
theorem feed_rxDataC {k : Nat} (hd : s.cfg.inDomain = true) (hm : s.cfg.mode = .compat) (hp : s.phase = .data)
    (hpage : s.page = 0x00) (hptr : s.ptr.toNat = s.cfg.colorBase.toNat + k) (hk : k < s.cap) (b : Byte)
    (ws : List Input) : s.feed (rxEvent b :: ws) = (s.storeLegacy (remap k) b).feed ws :=
  feed_rx hd hm hp (.inl ⟨remap k, compatTarget_of_offset hpage hptr hk, rfl⟩) ws

theorem State.storeLegacy_ptr {k a : Nat} {b : Byte} (hptr : s.ptr.toNat = s.cfg.colorBase.toNat + k)
    (hw : s.cfg.colorBase.toNat + k + 1 < 2 ^ s.cfg.ptrWidth) :
    (s.storeLegacy a b).ptr.toNat = s.cfg.colorBase.toNat + (k + 1) := by
  rw [State.storeLegacy, State.setPtr_ptr, inc_toNat_of_lt (hptr ▸ hw), hptr, Nat.add_assoc]

/-- Settles O56: the three bytes at the targets 1, 0 and 2. -/
theorem compatPixelWrite : Obligations.CompatPixelWrite := by
  intro s b0 b1 b2 hs hm hpage hsel hw
  have hcap : 2 < s.cap := by
    have hleds := ((inDomain_iff s.cfg).mp hs.domain).1
    change 2 < 3 * s.cfg.nLeds
    omega
  have hcap₀ : 0 < s.cap := by omega
  have hcap₁ : 1 < s.cap := by omega
  have hw₀ : s.cfg.colorBase.toNat + 0 + 1 < 2 ^ s.cfg.ptrWidth := by omega
  let s₀ := s.addressedLegacy s.cfg.colorBase
  let s₁ := s₀.storeLegacy 1 b0
  let s₂ := s₁.storeLegacy 0 b1
  let s₃ := s₂.storeLegacy 2 b2
  have hphase : s₀.phase = .data := if_neg hsel
  have hpage₀ : s₀.page = 0x00 := by
    change matchedPage s = 0x00
    rw [matchedPage, hpage, ite_self]
  have hptr₀ : s₀.ptr.toNat = s.cfg.colorBase.toNat + 0 := ptrOfByte_toNat s.cfg.colorBase
  have hptr₁ : s₁.ptr.toNat = s.cfg.colorBase.toNat + 1 := State.storeLegacy_ptr hptr₀ hw₀
  have hptr₂ : s₂.ptr.toNat = s.cfg.colorBase.toNat + 2 := State.storeLegacy_ptr hptr₁ hw
  have hrun : s.feed (eventsOf (wr8 s.cfg.colorBase [b0, b1, b2])) = .next s₃ := by
    have hevents := wireEvents_wr8 none s.cfg.colorBase [b0, b1, b2] []
    rw [List.append_nil] at hevents
    calc s.feed (eventsOf (wr8 s.cfg.colorBase [b0, b1, b2]))
        = s₀.feed [rxEvent b0, rxEvent b1, rxEvent b2, stopEvent] := by
          rw [eventsOf, hevents]
          exact feed_legacyAddress hs.domain hm s.cfg.colorBase _
      _ = s₁.feed [rxEvent b1, rxEvent b2, stopEvent] :=
          feed_rxDataC (s := s₀) (k := 0) hs.domain hm hphase hpage₀ hptr₀ hcap₀ b0 _
      _ = s₂.feed [rxEvent b2, stopEvent] :=
          feed_rxDataC (s := s₁) (k := 1) hs.domain hm hphase hpage₀ hptr₁ hcap₁ b1 _
      _ = s₃.feed [stopEvent] :=
          feed_rxDataC (s := s₂) (k := 2) hs.domain hm hphase hpage₀ hptr₂ hcap b2 _
      _ = .next s₃ := feed_stop (s := s₃) hs.domain []
  have hread (a : Nat) : s₃.buf.read a =
      if a = 2 then b2 else if a = 0 then b1 else if a = 1 then b0 else s.buf.read a := by
    calc s₃.buf.read a = (((s.buf.write 1 b0).write 0 b1).write 2 b2).read a := rfl
      _ = _ := by rw [Memory.read_write, Memory.read_write, Memory.read_write]
  refine ⟨s₃, hrun, hread 0, hread 1, hread 2, fun a ha => ?_⟩
  rw [hread, if_neg (by omega), if_neg (by omega), if_neg (by omega)]

/-! ### Under a closed page -/

theorem compatTarget_of_closed (hpage : s.page ≠ 0x00) : compatTarget s = none :=
  compatTarget_none.mpr fun h => hpage h.1

/-- Compatible data bytes under a non-zero page write the pointer only (R112). -/
theorem feed_rxDataC_closed (hd : s.cfg.inDomain = true) (hm : s.cfg.mode = .compat) (hp : s.phase = .data)
    (hpage : s.page ≠ 0x00) (bs : List Byte) (ws : List Input) :
    ∃ p, s.feed (bs.map rxEvent ++ ws) = (s.setPtr p).feed ws := by
  induction bs generalizing s with
  | nil => exact ⟨s.ptr, rfl⟩
  | cons b bs ih =>
    obtain ⟨p, hrest⟩ := ih (s := s.setPtr (inc s.cfg s.ptr)) hd hm hp hpage
    exact ⟨p, (feed_rx hd hm hp (.inr ⟨compatTarget_of_closed hpage, rfl⟩) _).trans hrest⟩

/-- The page value of a selection, from any state of a `COMPAT` build (R106). -/
theorem feed_pagesel (hd : s.cfg.inDomain = true) (hm : s.cfg.mode = .compat) (pg : Byte) (ts : List Token) :
    ∃ p, s.feed (eventsOf (pagesel s.cfg pg ++ ts)) =
      (((s.setPage pg).setPtr p).setPhase .data).feed (wireEvents none ts) := by
  let s₁ := s.addressedLegacy s.cfg.pageSel
  have hphase : s₁.phase = .page := if_pos rfl
  let s₂ := ((s₁.setPage pg).setPtr (inc s.cfg s₁.ptr)).setPhase .data
  refine ⟨inc s.cfg s₁.ptr, ?_⟩
  calc s.feed (eventsOf (pagesel s.cfg pg ++ ts))
      = s₁.feed (rxEvent pg :: stopEvent :: wireEvents none ts) := by
        rw [eventsOf, pagesel_eq_wr8, wireEvents_wr8]
        exact feed_legacyAddress hd hm s.cfg.pageSel _
    _ = s₂.feed (stopEvent :: wireEvents none ts) := feed_rx (s := s₁) hd hm hphase rfl _
    _ = s₂.feed (wireEvents none ts) := feed_stop (s := s₂) hd _

theorem matchedPage_of_persistent (h : s.cfg.pageScope = .persistent) : matchedPage s = s.page :=
  if_neg fun ⟨_, ht⟩ => nomatch h.symm.trans ht

/-- A compatible write to any register but the page-select one, under a page that stays and is closed. -/
theorem feed_wr8_closed (hd : s.cfg.inDomain = true) (hm : s.cfg.mode = .compat)
    (hscope : s.cfg.pageScope = .persistent) (hpage : s.page ≠ 0x00) {a : Byte} (ha : a ≠ s.cfg.pageSel)
    (bs : List Byte) : ∃ p, s.feed (wireEvents none (wr8 a bs)) = .next ((s.setPtr p).setPhase .data) := by
  have hstart : s.addressedLegacy a = (s.setPtr (ptrOfByte a)).setPhase .data := by
    rw [State.addressedLegacy, matchedPage_of_persistent hscope, if_neg ha]
    rfl
  have hevents := wireEvents_wr8 none a bs []
  rw [List.append_nil] at hevents
  obtain ⟨p, hdata⟩ := feed_rxDataC_closed (s := (s.setPtr (ptrOfByte a)).setPhase .data) hd hm rfl hpage bs [stopEvent]
  refine ⟨p, ?_⟩
  calc s.feed (wireEvents none (wr8 a bs))
      = (s.addressedLegacy a).feed (bs.map rxEvent ++ [stopEvent]) := by
        rw [hevents]
        exact feed_legacyAddress hd hm a _
    _ = ((s.setPtr p).setPhase .data).feed [stopEvent] := by
        rw [hstart, hdata]
        rfl
    _ = .next ((s.setPtr p).setPhase .data) := feed_stop (s := (s.setPtr p).setPhase .data) hd []

/-- Settles O57: every byte of a transaction is dropped, and a persistent page stays closed in the next one. -/
theorem nonZeroPageClosesPixels : Obligations.NonZeroPageClosesPixels := by
  constructor
  · intro s bs hs hm hp hpage
    obtain ⟨p, hdata⟩ := feed_rxDataC_closed hs.domain hm hp hpage bs []
    rw [List.append_nil, feed_nil] at hdata
    exact ⟨_, hdata, rfl, rfl⟩
  · intro s pg a bs hs hm hscope hpg ha
    obtain ⟨p, hsel⟩ := feed_pagesel hs.domain hm pg (wr8 a bs)
    obtain ⟨q, hwrite⟩ :=
      feed_wr8_closed (s := ((s.setPage pg).setPtr p).setPhase .data) hs.domain hm hscope hpg ha bs
    exact ⟨_, hsel.trans hwrite, rfl, rfl⟩

end Sys2Proof.Machine
end
